-- ==== Sys2Proof/Word.lean ====
section
/-! DEFINITION. The widths of the GBGR-FSK synthesis core: a register of the window is 32 bits wide, a sample
count and a binary64 encoding 64 bits, a payload cell 4 bits (00_scope.md R7, 10_state.md R30, R61). -/

namespace Sys2Proof

/-- A 32-bit register of the window (00_scope.md R7). -/
abbrev Word := BitVec 32

/-- A 64-bit value held in a pair of registers, or a sample word (00_scope.md R7, 30_encoding.md R112). -/
abbrev DWord := BitVec 64

/-- A character code, or one decoded byte (30_encoding.md R107, 40_bit_decoder.md R137). -/
abbrev Byte := BitVec 8

/-- One cell of the payload buffer (10_state.md R61). -/
abbrev Nibble := BitVec 4

/-- A byte offset within the 4 KiB register window (30_encoding.md R106). -/
abbrev Offset := BitVec 12

end Sys2Proof
end

