-- ==== Sys2Proof/Config.lean ====
section
/-! DEFINITION. What a build of the block fixes (00_scope.md R6): the phase width P, the table index width L,
the payload capacity N, the tone table LUT and the address BASE of the window; and what its platform fixes with BASE,
the routing IRQ_ROUTE of the interrupt output (20_memory.md R86). A build is plain data, so that a statement for every
state is a statement for every build (log entry 3). -/

namespace Sys2Proof

/-- One entry of the tone table: the binary32 encodings of its two components (41_modulator.md R155). -/
structure Sample where
  i : Word
  q : Word
  deriving DecidableEq, Repr

/-- The content of the tone table, a parameter of the build (41_modulator.md R155): the reference table, which is
the correctly rounded unit circle (R156), or the entries of another build, listed from k = 0. -/
inductive ToneTable where
  | reference
  | entries (es : List Sample)
  deriving DecidableEq, Repr

/-- IRQ_ROUTE (20_memory.md R86, 60_exceptions.md R254): the line of the host's interrupt controller that `irq` drives,
and its priority there. That it is these two numbers is the model's choice (log entry 15). -/
structure IrqRoute where
  line : Nat
  priority : Nat
  deriving DecidableEq, Repr

/-- The parameters of a build (00_scope.md R6) and of its platform (20_memory.md R86). BASE is aligned to 4 KiB
(20_memory.md R81), so it is given as `page`, the number BASE / 4096. -/
structure Build where
  P : Nat
  L : Nat
  N : Nat
  table : ToneTable
  page : Nat
  irqRoute : IrqRoute
  deriving DecidableEq, Repr

/-- The reference build of 00_scope.md R6: P = 32, L = 12, N = 256 and the reference table. BASE and IRQ_ROUTE are
left open by the spec: DESIGN CHOICE page 0 (log entry 4), line 0 and priority 0 (log entry 15), unsafe. -/
def Build.reference : Build :=
  { P := 32, L := 12, N := 256, table := .reference, page := 0, irqRoute := { line := 0, priority := 0 } }

/-- The legal ranges of 00_scope.md R6, and 2^L entries in a listed table (41_modulator.md R155). -/
def Build.legal (b : Build) : Bool :=
  decide (1 ≤ b.P) && decide (b.P ≤ 32) && decide (1 ≤ b.L) && decide (b.L ≤ b.P) &&
    decide (1 ≤ b.N) && decide (b.N ≤ 65535) &&
    match b.table with
    | .reference => true
    | .entries es => es.length == 2 ^ b.L

end Sys2Proof
end

