-- ==== Sys2Proof/Syntax.lean ====
section
/-! DEFINITION. The operations of the block as syntax. The block fetches no instructions (00_scope.md R2): its
instructions are the commands a host writes to CMD (30_encoding.md R100, R101) and the host's register reads and
writes (44_control.md R220, R221), one constructor per row of spec/opcode_table.json. -/

namespace Sys2Proof

/-- The commands of 30_encoding.md R101. -/
inductive Command where
  | nop
  | clrpay
  | pushc (c : Byte)
  | tune
  | build
  | resolve
  | clrst
  | srst
  deriving DecidableEq, Repr

/-- The operations of spec/opcode_table.json: eight commands and the two bus accesses. An access carries its shape
(its width in bits and, for a write, its byte strobes), because 44_control.md R220 and R221 test the shape. -/
inductive Instr where
  /-- NOP (44_control.md R215). -/
  | nop
  /-- CLRPAY (40_bit_decoder.md R133). -/
  | clrpay
  /-- PUSHC c (40_bit_decoder.md R134). -/
  | pushc (c : Byte)
  /-- TUNE (41_modulator.md R152). -/
  | tune
  /-- BUILD (42_framer.md R180, R181). -/
  | build
  /-- RESOLVE (43_cadence.md R203). -/
  | resolve
  /-- CLRST (44_control.md R216). -/
  | clrst
  /-- SRST (44_control.md R218). -/
  | srst
  /-- RD offset (44_control.md R220), `bits` wide. -/
  | rd (offset : Offset) (bits : Nat)
  /-- WR offset, data (44_control.md R221), `bits` wide, with its four byte strobes. -/
  | wr (offset : Offset) (bits : Nat) (strobes : BitVec 4) (data : Word)
  deriving DecidableEq, Repr

/-- A command as an operation of the table. -/
def Command.toInstr : Command → Instr
  | .nop => .nop
  | .clrpay => .clrpay
  | .pushc c => .pushc c
  | .tune => .tune
  | .build => .build
  | .resolve => .resolve
  | .clrst => .clrst
  | .srst => .srst

/-- One transaction on the host's bus, as the block's port sees it: the 13 bits `doooooooooo00` of 30_encoding.md
R106 (direction, then the 12-bit offset), the width of the access in bits, the four byte strobes and the write
data. Strobes and data mean nothing on a read. -/
structure BusAccess where
  header : BitVec 13
  bits : Nat
  strobes : BitVec 4
  data : Word
  deriving DecidableEq, Repr

/-- Why a CMD word is no command (30_encoding.md R103). -/
inductive IllegalCmd where
  /-- RSVD (bits 31..16) is not 0. -/
  | reservedNotZero
  /-- OPCODE is 0x08 to 0xFF. -/
  | unknownOpcode
  /-- ARG is not 0 and OPCODE is not PUSHC's. -/
  | argNotZero
  deriving DecidableEq, Repr

/-- Why a bus access is of bad shape (20_memory.md R83). -/
inductive BadShape where
  /-- The offset is not a multiple of 4. -/
  | misaligned
  /-- The access is narrower or wider than 32 bits. -/
  | notFullWord
  /-- A write with a strobe clear. -/
  | strobeClear
  deriving DecidableEq, Repr

/-- The configuration registers (10_state.md R39 to R46). -/
inductive CfgReg where
  | cadenceSel
  | fsLo | fsHi
  | f0Lo | f0Hi
  | f1Lo | f1Hi
  | sps
  | packets
  | ppsLo | ppsHi
  | periodLo | periodHi
  | defpLo | defpHi
  deriving DecidableEq, Repr

/-- The registers of the map of 10_state.md R30. -/
inductive Reg where
  | id | version | params
  | cmd
  | status | errFlags | errCode | irqEn | cfgWritten
  | cfg (c : CfgReg)
  | byteSel | byteData | nibbleCount | bitCount | decStatus
  | periodResLo | periodResHi
  | s2sLo | s2sHi
  | ftw0 | ftw1
  | packetSamplesLo | packetSamplesHi
  | gapSamplesLo | gapSamplesHi
  | packetCount
  | totalSamplesLo | totalSamplesHi
  | totalDurationLo | totalDurationHi
  | emittedLo | emittedHi
  | phase
  deriving DecidableEq, Repr

end Sys2Proof
end

