-- ==== Sys2Proof/Machine/State.lean ====
section
/-! DEFINITION. The state of the block as plain data: every register and internal element of 10_state.md, the
output stream, and the model's own fields for what stands outside the block (the events to come, the last bus
response, the level of the reset input). -/

namespace Sys2Proof.Machine

/-- The error causes (60_exceptions.md R241). -/
inductive Cause where
  | invalidHex
  | payloadOverflow
  | invalidCadence
  | cadenceRange
  | configError
  | lengthRange
  | illegalCmd
  | busyReject
  | busError
  deriving DecidableEq, Repr

/-- Why the model stops. Neither is reached from State.reset: no host access stops the block, and 42_framer.md R184
says of the engine step that nothing can stop it except reset. -/
inductive Fault where
  /-- Raised by an engine step whose snapshot no BUILD can have written: sps or unit is 0, or the bit the sample
  needs is not there (log entry 11). Safe: the model stops where the spec describes no behaviour. -/
  | snapshotIllFormed
  /-- Raised by an engine step that reads past the end of a listed tone table with fewer than 2^L entries, which no
  conforming build has (41_modulator.md R155, log entry 13). Safe. -/
  | toneEntryAbsent
  deriving DecidableEq, Repr

/-- Why the model has no meaning for an operation. -/
inductive Refusal where
  /-- Raised by exec for an instruction that has no meaning yet. Safe. No arm of exec raises it. -/
  | notModelled (mnemonic : String)
  deriving DecidableEq, Repr

/-- The decoder phase `state.dec_phase` (10_state.md R61). -/
inductive DecPhase where
  /-- No hex digit has been stored since the last clear. -/
  | lead
  /-- The last significant character was a digit. -/
  | body
  /-- White space has followed the last digit. -/
  | trail
  deriving DecidableEq, Repr

/-- The stored fields of STATUS (10_state.md R34); ERROR and IRQ are computed (Machine/Flags.lean). -/
structure Status where
  busy : Bool
  done : Bool
  metaValid : Bool
  gapClamped : Bool
  resolveValid : Bool
  tuneValid : Bool
  deriving DecidableEq, Repr

/-- The configuration registers (10_state.md R39 to R46) and CFG_WRITTEN (R38). A half of a pair is written on its
own, so each half is a field. -/
structure CfgRegs where
  cadenceSel : BitVec 2
  fsLo : Word
  fsHi : Word
  f0Lo : Word
  f0Hi : Word
  f1Lo : Word
  f1Hi : Word
  sps : Word
  packets : Word
  ppsLo : Word
  ppsHi : Word
  periodLo : Word
  periodHi : Word
  defpLo : Word
  defpHi : Word
  written : BitVec 14
  deriving DecidableEq, Repr

/-- The payload buffer (10_state.md R61): N cells, the number of digits stored, and the decoder's three flags. -/
structure Payload where
  nib : List Nibble
  n : Nat
  phase : DecPhase
  badHex : Bool
  overflow : Bool
  deriving DecidableEq, Repr

/-- The result registers (10_state.md R50 to R57). Both halves of a pair are always written in one step, so a pair
is one field. FTW0 and FTW1 have P bits. -/
structure Results where
  periodRes : DWord
  s2s : DWord
  ftw0 : Word
  ftw1 : Word
  packetSamples : DWord
  gapSamples : DWord
  packetCount : Word
  totalSamples : DWord
  totalDuration : DWord
  deriving DecidableEq, Repr

/-- The press snapshot `state.snap` (10_state.md R63). -/
structure Snapshot where
  bits : List Bool
  sps : Nat
  ftw0 : Word
  ftw1 : Word
  pkt : Nat
  unit : Nat
  packets : Nat
  total : Nat
  deriving DecidableEq, Repr

/-- The engine state (10_state.md R62): the index of the next sample, the P-bit accumulator, the snapshot. -/
structure Engine where
  k : DWord
  acc : Word
  snap : Snapshot
  deriving DecidableEq, Repr

/-- One element of the output stream: a sample word with its flags (20_memory.md R90, 30_encoding.md R112, R113). -/
structure Emission where
  word : DWord
  sop : Bool
  gap : Bool
  last : Bool
  deriving DecidableEq, Repr

/-- What the block answered to the last host access (20_memory.md R83, 44_control.md R220, R221). -/
inductive Response where
  /-- No answer from this block. -/
  | none
  /-- A read completed with this value. -/
  | read (data : Word)
  /-- A write completed normally. -/
  | written
  /-- The error response to a read, with the value it returns. -/
  | readError (data : Word)
  /-- The error response to a write. -/
  | writeError
  deriving DecidableEq, Repr

/-- One step of an agent outside the block (00_scope.md R13). -/
inductive Event where
  /-- The host performs a bus access at address page * 4096 + its 12-bit offset. -/
  | host (page : Nat) (access : BusAccess)
  /-- The sink accepts a sample: one engine step, if a sample is on offer. -/
  | accept
  /-- The reset input is asserted. -/
  | resetAssert
  /-- The reset input is deasserted. -/
  | resetRelease
  deriving DecidableEq, Repr

/-- The state of the block, with the model's own fields last. -/
structure State where
  build : Build
  status : Status
  errFlags : BitVec 9
  errCode : BitVec 4
  irqEn : BitVec 3
  byteSel : Word
  cfg : CfgRegs
  payload : Payload
  results : Results
  engine : Engine
  stream : List Emission
  resp : Response
  resetPin : Bool
  inputs : List Event
  deriving DecidableEq, Repr

/-- The stored STATUS fields after reset (10_state.md R34). -/
def Status.reset : Status :=
  { busy := false, done := false, metaValid := false, gapClamped := false, resolveValid := false, tuneValid := false }

/-- The configuration registers after reset: all 0, none written (10_state.md R38 to R46). -/
def CfgRegs.reset : CfgRegs :=
  { cadenceSel := 0, fsLo := 0, fsHi := 0, f0Lo := 0, f0Hi := 0, f1Lo := 0, f1Hi := 0, sps := 0, packets := 0,
    ppsLo := 0, ppsHi := 0, periodLo := 0, periodHi := 0, defpLo := 0, defpHi := 0, written := 0 }

/-- The payload buffer after reset (10_state.md R61). The cells are unspecified: DESIGN CHOICE 0 (log entry 5),
unsafe. -/
def Payload.reset (n : Nat) : Payload :=
  { nib := List.replicate n 0, n := 0, phase := .lead, badHex := false, overflow := false }

/-- The result registers after reset (10_state.md R50 to R57). -/
def Results.reset : Results :=
  { periodRes := 0, s2s := 0, ftw0 := 0, ftw1 := 0, packetSamples := 0, gapSamples := 0, packetCount := 0,
    totalSamples := 0, totalDuration := 0 }

/-- The snapshot after reset is unspecified (10_state.md R62): DESIGN CHOICE empty and 0 (log entry 6), unsafe. -/
def Snapshot.reset : Snapshot :=
  { bits := [], sps := 0, ftw0 := 0, ftw1 := 0, pkt := 0, unit := 0, packets := 0, total := 0 }

/-- The engine after reset (10_state.md R62). -/
def Engine.reset : Engine := { k := 0, acc := 0, snap := .reset }

/-- A block of build `b` right after reset (70_reset_and_hazards.md R271), with nothing emitted, no access answered
and no event to come (log entries 2, 8, 9). -/
def State.initial (b : Build) : State :=
  { build := b, status := .reset, errFlags := 0, errCode := 0, irqEn := 0, byteSel := 0, cfg := .reset,
    payload := .reset b.N, results := .reset, engine := .reset, stream := [], resp := .none, resetPin := false,
    inputs := [] }

/-- The machine right after reset: the reference build (00_scope.md R6). -/
def State.reset : State := State.initial .reference

end Sys2Proof.Machine
end

