-- ==== Sys2Proof/Machine/Float64.lean ====
section
/-! DEFINITION. The binary64 primitives of 00_scope.md R10 and the encoding of 30_encoding.md R110, computed exactly.
Every finite binary64 value is a whole multiple of 2^-1074, so a finite datum is its sign and that multiple. The same
rounding, with binary32's constants, gives RN32 of 41_modulator.md R156. -/

namespace Sys2Proof.Machine

/-- A binary64 datum (00_scope.md R10): finite with value `±mag · 2^-1074`, infinite, or NaN. Every NaN is treated
alike (30_encoding.md R110). -/
inductive F64 where
  | fin (neg : Bool) (mag : Nat)
  | inf (neg : Bool)
  | nan
  deriving DecidableEq, Repr

/-- The integer nearest to a / b, ties to the even integer, for b > 0 (the tie rule of 00_scope.md R10). -/
def rneDiv (a b : Nat) : Nat :=
  if 2 * (a % b) < b then a / b
  else if b < 2 * (a % b) then a / b + 1
  else a / b + (a / b) % 2

/-- How far above the least quantum 2^-e the quantum of the value x · 2^-e lies, in a format with a p-bit
fraction. -/
def quantumExp (p x : Nat) : Nat := Nat.log2 x - p

/-- n / d rounded to nearest even in a format with a p-bit fraction and least quantum 2^-e, as a multiple of 2^-e.
The exponent is not bounded above. -/
def roundUnits (p e n d : Nat) : Nat :=
  rneDiv (n * 2 ^ e) (d * 2 ^ quantumExp p (n * 2 ^ e / d)) * 2 ^ quantumExp p (n * 2 ^ e / d)

/-- The exponent and fraction bits of the datum of magnitude m · 2^-e in a format with a p-bit fraction. -/
def encodeUnits (p m : Nat) : Nat := quantumExp p m * 2 ^ p + m / 2 ^ quantumExp p m

/-- 2^1024 in units of 2^-1074: the first magnitude that is no finite binary64 value. -/
def infUnits : Nat := 2 ^ 2098

/-- RNE64 of 00_scope.md R10, for the real ±(n / d) with d > 0. An exact zero gives +0. A real at or above
2^1024 - 2^970 rounds to `infUnits` and becomes infinite. -/
def rne64 (neg : Bool) (n d : Nat) : F64 :=
  if n = 0 then .fin false 0
  else if infUnits ≤ roundUnits 52 1074 n d then .inf neg
  else .fin neg (roundUnits 52 1074 n d)

/-- The sign bit of a binary64 encoding (30_encoding.md R110). -/
def f64Sign (w : DWord) : Bool := w[63]

/-- The biased exponent (30_encoding.md R110). -/
def f64Exp (w : DWord) : Nat := (w.extractLsb' 52 11).toNat

/-- The fraction (30_encoding.md R110). -/
def f64Frac (w : DWord) : Nat := (w.extractLsb' 0 52).toNat

/-- The binary64 value whose encoding is w (30_encoding.md R110): e = 0 gives f · 2^-1074, 0 < e < 2047 gives
(2^52 + f) · 2^(e-1) · 2^-1074. -/
def f64 (w : DWord) : F64 :=
  if f64Exp w = 2047 then if f64Frac w = 0 then .inf (f64Sign w) else .nan
  else if f64Exp w = 0 then .fin (f64Sign w) (f64Frac w)
  else .fin (f64Sign w) ((2 ^ 52 + f64Frac w) * 2 ^ (f64Exp w - 1))

/-- The encoding of a binary64 value (30_encoding.md R110). No rule produces a NaN; the model's `.nan` has the
encoding 0x7FF8000000000000 (log entry 14). -/
def bits64 : F64 → DWord
  | .fin neg mag => BitVec.ofBool neg ++ BitVec.ofNat 63 (encodeUnits 52 mag)
  | .inf neg => BitVec.ofBool neg ++ BitVec.ofNat 63 (2047 * 2 ^ 52)
  | .nan => 0x7FF8000000000000

/-- finite(x) of 00_scope.md R10. -/
def F64.isFinite : F64 → Bool
  | .fin _ _ => true
  | .inf _ => false
  | .nan => false

/-- x > 0 of 00_scope.md R10: false for NaN, +0 and -0. -/
def F64.isPos : F64 → Bool
  | .fin neg mag => !neg && decide (0 < mag)
  | .inf neg => !neg
  | .nan => false

/-- A zero result of a quotient or product takes the sign that R10 gives it; every other result keeps its own
(00_scope.md R10). -/
def F64.withZeroSign (neg : Bool) : F64 → F64
  | .fin s mag => if mag = 0 then .fin neg 0 else .fin s mag
  | .inf s => .inf s
  | .nan => .nan

/-- f64_div of 00_scope.md R10. The last arm is no case of R10 and no rule reaches it (log entry 14). -/
def f64Div (a b : F64) : F64 :=
  match a, b with
  | .fin sa ma, .fin sb mb => if mb = 0 then .nan else (rne64 (sa ^^ sb) ma mb).withZeroSign (sa ^^ sb)
  | .fin sa _, .inf sb => .fin (sa ^^ sb) 0
  | _, _ => .nan

/-- f64_mul of 00_scope.md R10. The arms that answer NaN are no case of R10 and no rule reaches them (log entry
14). -/
def f64Mul (a b : F64) : F64 :=
  match a, b with
  | .fin sa ma, .fin sb mb => (rne64 (sa ^^ sb) (ma * mb) (2 ^ 2148)).withZeroSign (sa ^^ sb)
  | .inf sa, .fin sb mb => if mb = 0 then .nan else .inf (sa ^^ sb)
  | .fin sa ma, .inf sb => if ma = 0 then .nan else .inf (sa ^^ sb)
  | _, _ => .nan

/-- rint of 00_scope.md R10 applied to real(x) · 2^p, for the finite x = ±mag · 2^-1074 (p = 0 is rint(x)). -/
def rintScaled (p : Nat) (neg : Bool) (mag : Nat) : Int :=
  if neg then -(rneDiv (mag * 2 ^ p) (2 ^ 1074) : Int) else (rneDiv (mag * 2 ^ p) (2 ^ 1074) : Int)

/-- to_f64 of 00_scope.md R10, for n >= 0. -/
def toF64 (n : Nat) : F64 := rne64 false n 1

/-- The binary64 value 1.0. -/
def f64One : F64 := .fin false (2 ^ 1074)

/-- bits32 of RN32 of the real ±(n / d), for magnitudes of at most 1 (41_modulator.md R156, 30_encoding.md R111). An
exact zero gives +0.0. -/
def rn32 (neg : Bool) (n d : Nat) : Word :=
  if n = 0 then 0
  else BitVec.ofBool neg ++ BitVec.ofNat 31 (encodeUnits 23 (roundUnits 23 149 n d))

end Sys2Proof.Machine
end

