-- ==== Sys2Proof/Machine/Operands.lean ====
section
/-! DEFINITION. The operands a command reads: the configuration registers and the 64-bit values held in pairs
(20_memory.md R82), which of them are written (10_state.md R38), and the bits the payload buffer decodes to
(40_bit_decoder.md R137). -/

namespace Sys2Proof.Machine

/-- `X_HI` holds bits 63..32 and `X_LO` bits 31..0 of a 64-bit value (20_memory.md R82). -/
def reg64 (hi lo : Word) : DWord := hi ++ lo

/-- Bits 31..0 of a 64-bit value (20_memory.md R82). -/
def loHalf (v : DWord) : Word := v.extractLsb' 0 32

/-- Bits 63..32 of a 64-bit value (20_memory.md R82). -/
def hiHalf (v : DWord) : Word := v.extractLsb' 32 32

/-! ## Configuration registers -/

/-- The value a configuration register holds, its unstored bits reading 0 (10_state.md R39 to R46). -/
def CfgRegs.read (c : CfgRegs) : CfgReg → Word
  | .cadenceSel => c.cadenceSel.setWidth 32
  | .fsLo => c.fsLo
  | .fsHi => c.fsHi
  | .f0Lo => c.f0Lo
  | .f0Hi => c.f0Hi
  | .f1Lo => c.f1Lo
  | .f1Hi => c.f1Hi
  | .sps => c.sps
  | .packets => c.packets
  | .ppsLo => c.ppsLo
  | .ppsHi => c.ppsHi
  | .periodLo => c.periodLo
  | .periodHi => c.periodHi
  | .defpLo => c.defpLo
  | .defpHi => c.defpHi

/-- The stored bits of a write to a configuration register (10_state.md R39 to R46). -/
def CfgRegs.store (c : CfgRegs) (x : CfgReg) (v : Word) : CfgRegs :=
  match x with
  | .cadenceSel => { c with cadenceSel := v.setWidth 2 }
  | .fsLo => { c with fsLo := v }
  | .fsHi => { c with fsHi := v }
  | .f0Lo => { c with f0Lo := v }
  | .f0Hi => { c with f0Hi := v }
  | .f1Lo => { c with f1Lo := v }
  | .f1Hi => { c with f1Hi := v }
  | .sps => { c with sps := v }
  | .packets => { c with packets := v }
  | .ppsLo => { c with ppsLo := v }
  | .ppsHi => { c with ppsHi := v }
  | .periodLo => { c with periodLo := v }
  | .periodHi => { c with periodHi := v }
  | .defpLo => { c with defpLo := v }
  | .defpHi => { c with defpHi := v }

/-- The CFG_WRITTEN bit of a configuration register; CADENCE_SEL has none (10_state.md R38). -/
def writtenBit : CfgReg → Option Nat
  | .cadenceSel => none
  | .fsLo => some 0
  | .fsHi => some 1
  | .f0Lo => some 2
  | .f0Hi => some 3
  | .f1Lo => some 4
  | .f1Hi => some 5
  | .sps => some 6
  | .packets => some 7
  | .ppsLo => some 8
  | .ppsHi => some 9
  | .periodLo => some 10
  | .periodHi => some 11
  | .defpLo => some 12
  | .defpHi => some 13

/-- CFG_WRITTEN with the register's bit set, if it has one (10_state.md R38, R47). -/
def CfgRegs.markWritten (c : CfgRegs) (x : CfgReg) : CfgRegs :=
  match writtenBit x with
  | some b => { c with written := c.written ||| (1#14 <<< b) }
  | none => c

/-- An accepted write to X clears RESOLVE_VALID (10_state.md R47). -/
def feedsCadence : CfgReg → Bool
  | .fsLo | .fsHi | .cadenceSel | .ppsLo | .ppsHi | .periodLo | .periodHi | .defpLo | .defpHi => true
  | .f0Lo | .f0Hi | .f1Lo | .f1Hi | .sps | .packets => false

/-- An accepted write to X clears TUNE_VALID (10_state.md R47). -/
def feedsTuning : CfgReg → Bool
  | .fsLo | .fsHi | .f0Lo | .f0Hi | .f1Lo | .f1Hi => true
  | .cadenceSel | .sps | .packets | .ppsLo | .ppsHi | .periodLo | .periodHi | .defpLo | .defpHi => false

/-- A value is written when every CFG_WRITTEN bit of its registers is 1 (10_state.md R38): the pair at bits lo and
lo + 1. -/
def CfgRegs.pairWritten (c : CfgRegs) (lo : Nat) : Bool := c.written.getLsbD lo && c.written.getLsbD (lo + 1)

/-- written(FS), bits 0 and 1 (10_state.md R38). -/
def CfgRegs.fsWritten (c : CfgRegs) : Bool := c.pairWritten 0

/-- written(F0), bits 2 and 3 (10_state.md R38). -/
def CfgRegs.f0Written (c : CfgRegs) : Bool := c.pairWritten 2

/-- written(F1), bits 4 and 5 (10_state.md R38). -/
def CfgRegs.f1Written (c : CfgRegs) : Bool := c.pairWritten 4

/-- written(SPS), bit 6 (10_state.md R38). -/
def CfgRegs.spsWritten (c : CfgRegs) : Bool := c.written.getLsbD 6

/-- written(PACKETS), bit 7 (10_state.md R38). -/
def CfgRegs.packetsWritten (c : CfgRegs) : Bool := c.written.getLsbD 7

/-- written(PPS), bits 8 and 9 (10_state.md R38). -/
def CfgRegs.ppsWritten (c : CfgRegs) : Bool := c.pairWritten 8

/-- written(PERIOD), bits 10 and 11 (10_state.md R38). -/
def CfgRegs.periodWritten (c : CfgRegs) : Bool := c.pairWritten 10

/-- written(DEFP), bits 12 and 13 (10_state.md R38). -/
def CfgRegs.defpWritten (c : CfgRegs) : Bool := c.pairWritten 12

/-- fs (10_state.md R40). -/
def CfgRegs.fs (c : CfgRegs) : F64 := f64 (reg64 c.fsHi c.fsLo)

/-- f0 (10_state.md R41). -/
def CfgRegs.f0 (c : CfgRegs) : F64 := f64 (reg64 c.f0Hi c.f0Lo)

/-- f1 (10_state.md R41). -/
def CfgRegs.f1 (c : CfgRegs) : F64 := f64 (reg64 c.f1Hi c.f1Lo)

/-- pps (10_state.md R44). -/
def CfgRegs.pps (c : CfgRegs) : F64 := f64 (reg64 c.ppsHi c.ppsLo)

/-- The explicit period (10_state.md R45). -/
def CfgRegs.period (c : CfgRegs) : F64 := f64 (reg64 c.periodHi c.periodLo)

/-- The default period (10_state.md R46). -/
def CfgRegs.defp (c : CfgRegs) : F64 := f64 (reg64 c.defpHi c.defpLo)

/-- FS is written, finite and > 0 (10_state.md R40, 43_cadence.md R204). -/
def CfgRegs.fsOk (c : CfgRegs) : Bool := c.fsWritten && c.fs.isFinite && c.fs.isPos

/-! ## The payload buffer -/

/-- Two digits make one byte, the first the more significant (40_bit_decoder.md R137). -/
def nibblePairs : List Nibble → List Byte
  | a :: b :: rest => (a ++ b) :: nibblePairs rest
  | _ => []

/-- The stored digits (10_state.md R61). -/
def Payload.digits (p : Payload) : List Nibble := p.nib.take p.n

/-- The stored digits with the pad digit of an odd length before them (40_bit_decoder.md R137). -/
def Payload.padded (p : Payload) : List Nibble := if p.n % 2 = 1 then 0 :: p.digits else p.digits

/-- The decoded bytes byte(0), byte(1), … (40_bit_decoder.md R137). -/
def Payload.bytes (p : Payload) : List Byte := nibblePairs p.padded

/-- ceil(n / 2) (40_bit_decoder.md R137). -/
def Payload.nbytes (p : Payload) : Nat := (p.n + 1) / 2

/-- B = 8 · ceil(n / 2) (40_bit_decoder.md R138). -/
def Payload.bitCount (p : Payload) : Nat := 8 * p.nbytes

/-- The bits of a byte, most significant first (40_bit_decoder.md R139). -/
def byteBits (b : Byte) : List Bool := [b[7], b[6], b[5], b[4], b[3], b[2], b[1], b[0]]

/-- The bit sequence the payload decodes to (40_bit_decoder.md R137, R139). -/
def Payload.bits (p : Payload) : List Bool := p.bytes.flatMap byteBits

end Sys2Proof.Machine
end

