-- ==== Sys2Proof/Machine/Flags.lean ====
section
/-! DEFINITION. The flags: the error record and its priority (60_exceptions.md R241, R244, R250), the interrupt level
(R255) and the computed status words (10_state.md R34, R48, R49). -/

namespace Sys2Proof.Machine

/-- The code of a cause (60_exceptions.md R241). -/
def Cause.code : Cause → BitVec 4
  | .invalidHex => 1
  | .payloadOverflow => 2
  | .invalidCadence => 3
  | .cadenceRange => 4
  | .configError => 5
  | .lengthRange => 6
  | .illegalCmd => 7
  | .busyReject => 8
  | .busError => 9

/-- The ERR_FLAGS bit of a cause: bit code - 1 (60_exceptions.md R241, 10_state.md R35). -/
def Cause.flag (e : Cause) : BitVec 9 := 1#9 <<< (e.code.toNat - 1)

/-- The causes from the highest priority down (60_exceptions.md R250). The last three are each raised alone. -/
def causePriority : List Cause :=
  [.configError, .invalidCadence, .cadenceRange, .invalidHex, .payloadOverflow, .lengthRange, .illegalCmd,
   .busyReject, .busError]

/-- The cause of highest priority in a set of causes (60_exceptions.md R250). -/
def topCause (es : List Cause) : Option Cause := causePriority.find? fun e => es.contains e

/-- ERR_FLAGS after the causes `es` are raised (60_exceptions.md R244). -/
def flagsAfter (flags : BitVec 9) (es : List Cause) : BitVec 9 := es.foldl (fun f e => f ||| e.flag) flags

/-- ERR_CODE after the causes `es` are raised: it changes only while it is 0 (60_exceptions.md R244, 10_state.md
R36). -/
def codeAfter (code : BitVec 4) (es : List Cause) : BitVec 4 :=
  if code = 0 then
    match topCause es with
    | some e => e.code
    | none => code
  else code

/-- STATUS.ERROR (10_state.md R34). -/
def State.errorBit (s : State) : Bool := s.errFlags != 0

/-- The level of the interrupt output (60_exceptions.md R255). -/
def State.irqLevel (s : State) : Bool :=
  (s.irqEn[0] && s.status.done) || (s.irqEn[1] && s.errorBit) || (s.irqEn[2] && s.status.gapClamped)

/-- What reaches the host's interrupt controller: while `irq` is 1, a request on the line and at the priority that
IRQ_ROUTE gives (20_memory.md R86, 60_exceptions.md R254). The controller itself is not part of the block. -/
def State.hostIrq (s : State) : Option IrqRoute := if s.irqLevel then some s.build.irqRoute else none

/-- STATUS (10_state.md R34): bits 0 to 7 from the right. -/
def State.statusWord (s : State) : Word :=
  (0 : BitVec 24) ++ BitVec.ofBool s.irqLevel ++ BitVec.ofBool s.status.tuneValid ++
    BitVec.ofBool s.status.resolveValid ++ BitVec.ofBool s.errorBit ++ BitVec.ofBool s.status.gapClamped ++
    BitVec.ofBool s.status.metaValid ++ BitVec.ofBool s.status.done ++ BitVec.ofBool s.status.busy

/-- The DEC_PHASE field (10_state.md R49). -/
def DecPhase.field : DecPhase → BitVec 2
  | .lead => 0
  | .body => 1
  | .trail => 2

/-- DEC_STATUS (10_state.md R49). -/
def Payload.statusWord (p : Payload) : Word :=
  (0 : BitVec 28) ++ BitVec.ofBool p.overflow ++ BitVec.ofBool p.badHex ++ p.phase.field

/-- BYTE_DATA (10_state.md R48): VALID in bit 8 and byte(sel) when sel < nbytes, else 0. -/
def Payload.byteData (p : Payload) (sel : Word) : Word :=
  match p.bytes[sel.toNat]? with
  | some b => (0 : BitVec 23) ++ (1 : BitVec 1) ++ b
  | none => 0

/-- PARAMS (10_state.md R32): N in bits 31..16, L in bits 15..8, P in bits 7..0. -/
def paramsWord (b : Build) : Word := BitVec.ofNat 16 b.N ++ BitVec.ofNat 8 b.L ++ BitVec.ofNat 8 b.P

/-- The P-bit field of a 32-bit register: bits 31..P read 0 (10_state.md R52, R59). -/
def phaseField (b : Build) (v : Word) : Word := BitVec.ofNat 32 (v.toNat % 2 ^ b.P)

end Sys2Proof.Machine
end

