-- ==== Sys2Proof/Machine/Ops.lean ====
section
/-! DEFINITION. The operations that the meanings share: the bus response, taking an error and clearing the record
(60_exceptions.md R244, R253), the busy check of 30_encoding.md R104, reset (70_reset_and_hazards.md R270), a
configuration write (10_state.md R47), storing a digit. -/

namespace Sys2Proof.Machine

/-- The result of an operation: the block never stops on a host access. -/
abbrev Result := Host.Outcome State Fault Refusal

/-- The block answers a host access (20_memory.md R83). -/
def respond (r : Response) (s : State) : State := { s with resp := r }

/-! ## Taking an error and returning from it -/

/-- Raise a set of causes in one step (60_exceptions.md R244): every flag is set, and ERR_CODE, if it was 0, takes
the code of the cause of highest priority. Nothing is saved and no mode changes (R252). -/
def raiseAll (es : List Cause) (s : State) : State :=
  { s with errFlags := flagsAfter s.errFlags es, errCode := codeAfter s.errCode es }

/-- Raise one cause (60_exceptions.md R244). -/
def raise (e : Cause) (s : State) : State := raiseAll [e] s

/-- The return from error (44_control.md R216, R217): the record and the two sticky status bits are cleared. -/
def clearRecord (s : State) : State :=
  { s with errFlags := 0, errCode := 0, status := { s.status with done := false, gapClamped := false } }

/-- A command or configuration write that completes normally on the bus, whatever it raised (60_exceptions.md
R243). -/
def completed (s : State) : Result := .next (respond .written s)

/-- The dispatch check of 30_encoding.md R104: a command that is not accepted while BUSY = 1 raises BUSY_REJECT and
does nothing else. -/
def unlessBusy (f : State → State) (s : State) : Result :=
  if s.status.busy then completed (raise .busyReject s) else completed (f s)

/-- A read of bad shape (20_memory.md R83): BUS_ERROR, an error response, data 0. -/
def badRead (s : State) : Result := .next (respond (.readError 0) (raise .busError s))

/-- A write of bad shape (20_memory.md R83): BUS_ERROR and an error response. -/
def badWrite (s : State) : Result := .next (respond .writeError (raise .busError s))

/-! ## Reset -/

/-- Apply reset (70_reset_and_hazards.md R270): every register and internal element of the block takes its reset
value. The build is fixed, what the sink has accepted stays with the sink, and the host's and the reset input's side
of the model is not the block's. -/
def applyReset (s : State) : State :=
  { State.initial s.build with stream := s.stream, resp := s.resp, resetPin := s.resetPin, inputs := s.inputs }

/-! ## Configuration writes -/

/-- STATUS after an accepted write to the configuration register X (10_state.md R47). -/
def Status.afterCfgWrite (st : Status) (x : CfgReg) : Status :=
  { st with
    metaValid := false
    resolveValid := st.resolveValid && !feedsCadence x
    tuneValid := st.tuneValid && !feedsTuning x }

/-- A host write to a configuration register (10_state.md R47). -/
def writeCfg (x : CfgReg) (v : Word) (s : State) : State :=
  if s.status.busy then raise .busyReject s
  else { s with cfg := (s.cfg.store x v).markWritten x, status := s.status.afterCfgWrite x }

/-! ## The payload buffer -/

/-- META_VALID is cleared (10_state.md R34). -/
def clearMeta (s : State) : State := { s with status := { s.status with metaValid := false } }

/-- The form of the payload memory: exactly N cells, so that one content is one list, and at most N digits
(10_state.md R61). -/
def Payload.wf (cap : Nat) (p : Payload) : Bool := p.nib.length == cap && decide (p.n ≤ cap)

/-- Store one digit at the end of the payload (40_bit_decoder.md R134). -/
def Payload.push (p : Payload) (d : Nibble) : Payload :=
  { p with nib := p.nib.set p.n d, n := p.n + 1, phase := .body }

end Sys2Proof.Machine
end

