-- ==== Sys2Proof/Machine/Control.lean ====
section
/-! DEFINITION. The control commands NOP (44_control.md R215), CLRST (R216) and SRST (R218). They are accepted while
BUSY = 1 (30_encoding.md R104). -/

namespace Sys2Proof.Machine

/-- NOP (44_control.md R215): nothing changes but the answer on the bus. -/
def execNop (s : State) : Result := completed s

/-- CLRST (44_control.md R216): clear the error record and the sticky status. -/
def execClrst (s : State) : Result := completed (clearRecord s)

/-- SRST (44_control.md R218): soft reset. -/
def execSrst (s : State) : Result := completed (applyReset s)

end Sys2Proof.Machine
end

