-- ==== Sys2Proof/WellFormed.lean ====
section
/-! DEFINITION. Which operations are well formed: the access shapes of 20_memory.md R83, and one spelling for a
command. A write of a legal command word to CMD IS the command (30_encoding.md R116: `NOP` is `WR CMD, 0`), so the
well-formed spelling of it is the command's own constructor (log entry 10). -/

namespace Sys2Proof

/-- The rows of 30_encoding.md R101: (match, mask). -/
def cmdRows : List (Word × Word) :=
  [(0x00000000, 0xFFFFFFFF), (0x00000001, 0xFFFFFFFF), (0x00000002, 0xFFFF00FF), (0x00000003, 0xFFFFFFFF),
   (0x00000004, 0xFFFFFFFF), (0x00000005, 0xFFFFFFFF), (0x00000006, 0xFFFFFFFF), (0x00000007, 0xFFFFFFFF)]

/-- A command word is legal if and only if it matches one row under the row's mask (30_encoding.md R101). -/
def legalCmdWord (w : Word) : Bool := cmdRows.any fun r => w &&& r.2 == r.1

/-- The offset is a multiple of 4 (20_memory.md R83). -/
def alignedOffset (offset : Offset) : Bool := offset.toNat % 4 == 0

/-- The shape of a read: a full 32-bit word at an aligned offset (20_memory.md R83). -/
def readShapeOk (offset : Offset) (bits : Nat) : Bool := alignedOffset offset && bits == 32

/-- The shape of a write: as of a read, with all four strobes set (20_memory.md R83). -/
def writeShapeOk (offset : Offset) (bits : Nat) (strobes : BitVec 4) : Bool :=
  readShapeOk offset bits && strobes == 0xF

/-- The byte offset of CMD (10_state.md R33). -/
def cmdOffset : Offset := 0x010

/-- An operation in its one well-formed spelling: an access of legal shape, and no write that spells a command. -/
def Instr.wellFormed : Instr → Bool
  | .nop => true
  | .clrpay => true
  | .pushc _ => true
  | .tune => true
  | .build => true
  | .resolve => true
  | .clrst => true
  | .srst => true
  | .rd offset bits => readShapeOk offset bits
  | .wr offset bits strobes data =>
    writeShapeOk offset bits strobes && !(offset == cmdOffset && legalCmdWord data)

end Sys2Proof
end

