-- ==== Sys2Proof/Decode.lean ====
section
/-! DEFINITION. Decoding of CMD words (30_encoding.md R102) and of bus accesses (30_encoding.md R106), both total
and rejecting by name, and the encoder after them. -/

namespace Sys2Proof

/-- The three fields of a command word (30_encoding.md R100). -/
def cmdOpcode (w : Word) : Byte := w.extractLsb' 0 8

/-- ARG, bits 15..8 (30_encoding.md R100, R107). -/
def cmdArg (w : Word) : Byte := w.extractLsb' 8 8

/-- RSVD, bits 31..16 (30_encoding.md R100). -/
def cmdRsvd (w : Word) : BitVec 16 := w.extractLsb' 16 16

/-- The seven commands without an argument, by opcode (30_encoding.md R101). -/
def plainCommand (op : Byte) : Option Command :=
  if op = 0x00 then some .nop
  else if op = 0x01 then some .clrpay
  else if op = 0x03 then some .tune
  else if op = 0x04 then some .build
  else if op = 0x05 then some .resolve
  else if op = 0x06 then some .clrst
  else if op = 0x07 then some .srst
  else none

/-- Decoding of a CMD write (30_encoding.md R102): every 32-bit word is exactly one command or ILLEGAL, here with
the clause of R103 that makes it so. -/
def decodeCmd (w : Word) : Except IllegalCmd Command :=
  if cmdRsvd w ≠ 0 then .error .reservedNotZero
  else if cmdOpcode w = 0x02 then .ok (.pushc (cmdArg w))
  else match plainCommand (cmdOpcode w) with
    | some c => if cmdArg w = 0 then .ok c else .error .argNotZero
    | none => .error .unknownOpcode

/-- The direction bit d of a transaction: 1 for a write (30_encoding.md R106). -/
def accessIsWrite (a : BusAccess) : Bool := a.header[12]

/-- The 12-bit offset of a transaction, its low two bits included (30_encoding.md R106). -/
def accessOffset (a : BusAccess) : Offset := a.header.extractLsb' 0 12

/-- The operation a bus transaction asks for. It is total: a transaction of bad shape is the read or write it looks
like, with its shape, and a write of a legal command word to CMD is the command (30_encoding.md R104, R116). -/
def accessInstr (a : BusAccess) : Instr :=
  if accessIsWrite a then
    if writeShapeOk (accessOffset a) a.bits a.strobes && accessOffset a == cmdOffset then
      match decodeCmd a.data with
      | .ok c => c.toInstr
      | .error _ => .wr (accessOffset a) a.bits a.strobes a.data
    else .wr (accessOffset a) a.bits a.strobes a.data
  else .rd (accessOffset a) a.bits

/-- What is wrong with the shape of a transaction, if anything (20_memory.md R83). -/
def accessBadShape (a : BusAccess) : Option BadShape :=
  if !alignedOffset (accessOffset a) then some .misaligned
  else if a.bits ≠ 32 then some .notFullWord
  else if accessIsWrite a && a.strobes != 0xF then some .strobeClear
  else none

/-- The decoder of the rows of spec/opcode_table.json: a transaction of bad shape is rejected by name, every other
is its operation. -/
def decode (a : BusAccess) : Except BadShape Instr :=
  match accessBadShape a with
  | some e => .error e
  | none => .ok (accessInstr a)

/-! ## The encoder -/

/-- The word of a command (30_encoding.md R101, R107). -/
def encodeCmd : Command → Word
  | .nop => 0x00000000
  | .clrpay => 0x00000001
  | .pushc c => (0 : BitVec 16) ++ c ++ (0x02 : Byte)
  | .tune => 0x00000003
  | .build => 0x00000004
  | .resolve => 0x00000005
  | .clrst => 0x00000006
  | .srst => 0x00000007

/-- The 13 bits of a transaction: direction, then offset (30_encoding.md R106). -/
def accessHeader (write : Bool) (offset : Offset) : BitVec 13 := BitVec.ofBool write ++ offset

/-- The transaction that issues a command: `WR CMD, word` (30_encoding.md R116). -/
def cmdAccess (w : Word) : BusAccess :=
  { header := accessHeader true cmdOffset, bits := 32, strobes := 0xF, data := w }

/-- The transaction of an operation. A read has no strobes and no data; they are written as 0xF and 0. -/
def encode : Instr → BusAccess
  | .nop => cmdAccess (encodeCmd .nop)
  | .clrpay => cmdAccess (encodeCmd .clrpay)
  | .pushc c => cmdAccess (encodeCmd (.pushc c))
  | .tune => cmdAccess (encodeCmd .tune)
  | .build => cmdAccess (encodeCmd .build)
  | .resolve => cmdAccess (encodeCmd .resolve)
  | .clrst => cmdAccess (encodeCmd .clrst)
  | .srst => cmdAccess (encodeCmd .srst)
  | .rd offset bits => { header := accessHeader false offset, bits := bits, strobes := 0xF, data := 0 }
  | .wr offset bits strobes data =>
    { header := accessHeader true offset, bits := bits, strobes := strobes, data := data }

/-! ## Words numbered as spec/opcode_table.json numbers them

A row of format `cmd` gives 32 bits, the word written to CMD. A row of format `bus` gives the 13 bits of 30_encoding.md
R106 in two bytes; data bits, where a word gives them, stand above those (log entry 10). -/

/-- Whether a table word of `nbits` bits is of format `bus`. -/
def tableIsBus (nbits : Nat) : Bool := decide (nbits ≤ 16) || decide (32 < nbits)

/-- The transaction a table word stands for: the access itself, or the write of a command word to CMD. -/
def tableAccess (nbits w : Nat) : BusAccess :=
  if tableIsBus nbits then
    { header := BitVec.ofNat 13 w, bits := 32, strobes := 0xF, data := BitVec.ofNat 32 (w / 2 ^ 16) }
  else cmdAccess (BitVec.ofNat 32 w)

/-- The instruction the decoder reads from a table word, none where it refuses: for a command word the command
decoder of R102, for a bus word the access decoder, whose bits 15..13 must be 0. -/
def decodeTableWord (nbits w : Nat) : Option Instr :=
  if tableIsBus nbits then
    if (w / 2 ^ 13) % 8 = 0 then
      match decode (tableAccess nbits w) with
      | .ok i => some i
      | .error _ => none
    else none
  else
    match decodeCmd (BitVec.ofNat 32 w) with
    | .ok c => some c.toInstr
    | .error _ => none

end Sys2Proof
end

