-- ==== Sys2Proof/Machine/Decoder.lean ====
section
/-! DEFINITION. The bit decoder: character classes (40_bit_decoder.md R131, R132), CLRPAY (R133) and PUSHC (R134). -/

namespace Sys2Proof.Machine

/-- The three classes of a character code (40_bit_decoder.md R131). -/
inductive CharClass where
  | ws
  | hex
  | bad
  deriving DecidableEq, Repr

/-- Lower-casing of 'A' to 'F' (40_bit_decoder.md R131). -/
def lowerHex (c : Byte) : Byte := if 0x41 ≤ c ∧ c ≤ 0x46 then c + 0x20 else c

/-- The class of a lower-cased character code (40_bit_decoder.md R131). -/
def charClass (c : Byte) : CharClass :=
  if c = 0x09 ∨ c = 0x0A ∨ c = 0x0B ∨ c = 0x0C ∨ c = 0x0D ∨ c = 0x20 then .ws
  else if (0x30 ≤ c ∧ c ≤ 0x39) ∨ (0x61 ≤ c ∧ c ≤ 0x66) then .hex
  else .bad

/-- The value of a lower-cased HEX character (40_bit_decoder.md R132). -/
def nibbleOf (c : Byte) : Nibble :=
  if c ≤ 0x39 then (c - 0x30).setWidth 4 else (c - 0x61 + 10).setWidth 4

/-- What CLRPAY does to the payload buffer (40_bit_decoder.md R133): the cells are not cleared. -/
def Payload.clear (p : Payload) : Payload :=
  { p with n := 0, phase := .lead, badHex := false, overflow := false }

/-- What one character does to the payload buffer of capacity `cap`, and the cause it raises (40_bit_decoder.md
R134). The character is lower-cased here. -/
def Payload.feed (cap : Nat) (p : Payload) (c : Byte) : Payload × List Cause :=
  match charClass (lowerHex c) with
  | .ws => if p.phase = .body then ({ p with phase := .trail }, []) else (p, [])
  | .hex =>
    if p.phase = .trail then ({ p with badHex := true }, [.invalidHex])
    else if p.n = cap then ({ p with overflow := true }, [.payloadOverflow])
    else (p.push (nibbleOf (lowerHex c)), [])
  | .bad => ({ p with badHex := true }, [.invalidHex])

/-- CLRPAY on the state, once accepted (40_bit_decoder.md R133). -/
def clearPayload (s : State) : State := { clearMeta s with payload := s.payload.clear }

/-- PUSHC on the state, once accepted (40_bit_decoder.md R134). -/
def pushChar (c : Byte) (s : State) : State :=
  raiseAll (s.payload.feed s.build.N c).2 { clearMeta s with payload := (s.payload.feed s.build.N c).1 }

/-- CLRPAY (40_bit_decoder.md R133): clear the payload buffer. -/
def execClrpay (s : State) : Result := unlessBusy clearPayload s

/-- PUSHC c (40_bit_decoder.md R134): feed one character to the decoder. -/
def execPushc (c : Byte) (s : State) : Result := unlessBusy (pushChar c) s

end Sys2Proof.Machine
end

