-- ==== Sys2Proof/Machine/Cadence.lean ====
section
/-! DEFINITION. The cadence resolver: resolve_period (43_cadence.md R201), start_to_start (R202), cadence_errors (R204)
and RESOLVE (R203). A pure function of the configuration registers (R200). -/

namespace Sys2Proof.Machine

/-- One cadence source (43_cadence.md R201): written, then > 0, then the period it gives. -/
def cadenceSource (written : Bool) (v period : F64) : Except Cause F64 :=
  if !written then .error .configError
  else if !v.isPos then .error .invalidCadence
  else .ok period

/-- resolve_period (43_cadence.md R201): pps if supplied, else the period if supplied, else the default. -/
def CfgRegs.resolvePeriod (c : CfgRegs) : Except Cause F64 :=
  if c.cadenceSel[0] then cadenceSource c.ppsWritten c.pps (f64Div f64One c.pps)
  else if c.cadenceSel[1] then cadenceSource c.periodWritten c.period c.period
  else cadenceSource c.defpWritten c.defp c.defp

/-- The range test of 43_cadence.md R202: the product is finite and rounds below 2^63. The product of a period and an
fs that R201 and R202 admit is not negative, so its sign is + and rint is a natural number. -/
def roundSamples (prod : F64) : Except Cause Nat :=
  match prod with
  | .fin neg mag =>
    if rintScaled 0 neg mag ≥ 2 ^ 63 then .error .cadenceRange else .ok (rintScaled 0 neg mag).toNat
  | .inf _ => .error .cadenceRange
  | .nan => .error .cadenceRange

/-- start_to_start (43_cadence.md R202). -/
def CfgRegs.startToStart (c : CfgRegs) (period : F64) : Except Cause Nat :=
  if !c.fsOk then .error .configError else roundSamples (f64Mul period c.fs)

/-- cadence_errors (43_cadence.md R204). -/
def CfgRegs.cadenceErrors (c : CfgRegs) : List Cause :=
  (match c.resolvePeriod with
    | .error e => [e]
    | .ok _ => []) ++
  (if c.fsOk then [] else [.configError]) ++
  (match c.resolvePeriod with
    | .error _ => []
    | .ok p =>
      if c.fsOk then
        match c.startToStart p with
        | .error _ => [.cadenceRange]
        | .ok _ => []
      else [])

/-- The period and the start-to-start count, both values when cadence_errors is empty (43_cadence.md R204). -/
def CfgRegs.cadence (c : CfgRegs) : Option (F64 × Nat) :=
  match c.resolvePeriod with
  | .error _ => none
  | .ok p =>
    match c.startToStart p with
    | .error _ => none
    | .ok n => some (p, n)

/-- PERIOD_RES, S2S and RESOLVE_VALID as RESOLVE and BUILD write them (43_cadence.md R203, 42_framer.md R181). -/
def writeCadence (period : F64) (s2s : Nat) (s : State) : State :=
  { s with
    results := { s.results with periodRes := bits64 period, s2s := BitVec.ofNat 64 s2s }
    status := { s.status with resolveValid := true } }

/-- RESOLVE on the state, once accepted (43_cadence.md R203). -/
def resolve (s : State) : State :=
  match s.cfg.cadenceErrors, s.cfg.cadence with
  | [], some (period, s2s) => writeCadence period s2s s
  | es, _ => raiseAll es s

/-- RESOLVE (43_cadence.md R203): resolve the cadence. -/
def execResolve (s : State) : Result := unlessBusy resolve s

end Sys2Proof.Machine
end

