-- ==== Sys2Proof/Machine/Modulator.lean ====
section
/-! DEFINITION. The modulator's command: tuning words (41_modulator.md R151), tune_ok (R153) and TUNE (R152). -/

namespace Sys2Proof.Machine

/-- The tuning word of f at fs (41_modulator.md R151): the quotient is rounded once to binary64, the product with 2^P
is exact, and rint goes to the nearest integer, ties to even. The quotient is finite whenever tune_ok holds; the other
arms are not reached (log entry 14). -/
def ftw (p : Nat) (f fs : F64) : Word :=
  match f64Div f fs with
  | .fin neg mag => BitVec.ofNat 32 (rintScaled p neg mag % (2 ^ p : Int)).toNat
  | .inf _ => 0
  | .nan => 0

/-- tune_ok (41_modulator.md R153). -/
def CfgRegs.tuneOk (c : CfgRegs) : Bool :=
  c.fsOk && (c.f0Written && c.f0.isFinite) && (c.f1Written && c.f1.isFinite) &&
    (f64Div c.f0 c.fs).isFinite && (f64Div c.f1 c.fs).isFinite

/-- FTW0 and FTW1 as TUNE and BUILD compute them, and TUNE_VALID (41_modulator.md R152, 42_framer.md R181). -/
def writeTuning (s : State) : State :=
  { s with
    results := { s.results with ftw0 := ftw s.build.P s.cfg.f0 s.cfg.fs, ftw1 := ftw s.build.P s.cfg.f1 s.cfg.fs }
    status := { s.status with tuneValid := true } }

/-- TUNE on the state, once accepted (41_modulator.md R152). -/
def tune (s : State) : State := if s.cfg.tuneOk then writeTuning s else raise .configError s

/-- TUNE (41_modulator.md R152): compute the tuning words. -/
def execTune (s : State) : Result := unlessBusy tune s

end Sys2Proof.Machine
end

