-- ==== Sys2Proof/Machine/Framer.lean ====
section
/-! DEFINITION. The packet framer: framing arithmetic (42_framer.md R170), build_errors (R176) and BUILD (R180,
R181). -/

namespace Sys2Proof.Machine

/-- pkt = B · s (42_framer.md R170). -/
def packetLen (bitCount sps : Nat) : Nat := bitCount * sps

/-- gap = max(0, s2s - pkt) (42_framer.md R170): natural subtraction is that maximum. -/
def gapLen (pkt s2s : Nat) : Nat := s2s - pkt

/-- unit = pkt + gap (42_framer.md R170). -/
def unitLen (pkt s2s : Nat) : Nat := pkt + gapLen pkt s2s

/-- The packet length BUILD computes (42_framer.md R177). -/
def State.pkt (s : State) : Nat := packetLen s.payload.bitCount s.cfg.sps.toNat

/-- total = n_p · unit (42_framer.md R170). -/
def State.total (s : State) (s2s : Nat) : Nat := s.cfg.packets.toNat * unitLen s.pkt s2s

/-- The checks of 42_framer.md R176 other than LENGTH_RANGE. -/
def State.inputErrors (s : State) : List Cause :=
  (if s.cfg.tuneOk then [] else [.configError]) ++
  s.cfg.cadenceErrors ++
  (if !s.cfg.spsWritten || s.cfg.sps == 0 then [.configError] else []) ++
  (if !s.cfg.packetsWritten then [.configError] else []) ++
  (if s.payload.badHex then [.invalidHex] else []) ++
  (if s.payload.overflow then [.payloadOverflow] else [])

/-- The check of 42_framer.md R174. -/
def State.lengthErrors (s : State) : List Cause :=
  match s.cfg.cadence with
  | some (_, s2s) => if s.total s2s ≥ 2 ^ 64 then [.lengthRange] else []
  | none => []

/-- build_errors (42_framer.md R176): LENGTH_RANGE is checked only when every other check passes. -/
def State.buildErrors (s : State) : List Cause :=
  if s.inputErrors = [] then s.lengthErrors else s.inputErrors

/-- TOTAL_DURATION (42_framer.md R173). -/
def totalDuration (total : Nat) (fs : F64) : F64 := f64Div (toF64 total) fs

/-- What the acceptance of every BUILD clears (42_framer.md R180). -/
def acceptBuild (s : State) : State :=
  { s with status := { s.status with done := false, gapClamped := false, metaValid := false } }

/-- The metadata registers (42_framer.md R181). -/
def writeMetadata (s2s : Nat) (s : State) : State :=
  { s with
    results := { s.results with
      packetSamples := BitVec.ofNat 64 s.pkt
      gapSamples := BitVec.ofNat 64 (gapLen s.pkt s2s)
      packetCount := s.cfg.packets
      totalSamples := BitVec.ofNat 64 (s.total s2s)
      totalDuration := bits64 (totalDuration (s.total s2s) s.cfg.fs) }
    status := { s.status with gapClamped := decide (s2s < s.pkt), metaValid := true } }

/-- The press snapshot (42_framer.md R181, 10_state.md R63). -/
def State.snapshot (s : State) (s2s : Nat) : Snapshot :=
  { bits := s.payload.bits
    sps := s.cfg.sps.toNat
    ftw0 := ftw s.build.P s.cfg.f0 s.cfg.fs
    ftw1 := ftw s.build.P s.cfg.f1 s.cfg.fs
    pkt := s.pkt
    unit := unitLen s.pkt s2s
    packets := s.cfg.packets.toNat
    total := s.total s2s }

/-- The engine starts, or the empty press is done at once (42_framer.md R181, R185). -/
def startEngine (s2s : Nat) (s : State) : State :=
  if s.total s2s = 0 then
    { s with engine := { s.engine with k := 0, acc := 0 }, status := { s.status with done := true } }
  else
    { s with engine := { k := 0, acc := 0, snap := s.snapshot s2s }, status := { s.status with busy := true } }

/-- The success path of BUILD (42_framer.md R181). -/
def buildPress (period : F64) (s2s : Nat) (s : State) : State :=
  startEngine s2s (writeMetadata s2s (writeCadence period s2s (writeTuning s)))

/-- BUILD on the state, once accepted by the dispatch (42_framer.md R180). -/
def build (s : State) : State :=
  match s.buildErrors, s.cfg.cadence with
  | [], some (period, s2s) => buildPress period s2s (acceptBuild s)
  | es, _ => raiseAll es (acceptBuild s)

/-- BUILD (42_framer.md R180, R181): build a press and start the stream engine. -/
def execBuild (s : State) : Result := unlessBusy build s

end Sys2Proof.Machine
end

