-- ==== Sys2Proof/Machine/Access.lean ====
section
/-! DEFINITION. Host register access: the register map (10_state.md R30), RD (44_control.md R220) and WR (R221) with the
dispatch of CMD writes (30_encoding.md R104). -/

namespace Sys2Proof.Machine

/-- The identity, control and configuration registers of the map (10_state.md R30). -/
def controlRegMap : List (Nat × Reg) :=
  [(0x000, .id), (0x004, .version), (0x008, .params), (0x010, .cmd), (0x014, .status), (0x018, .errFlags),
   (0x01C, .errCode), (0x020, .irqEn), (0x024, .cfgWritten), (0x028, .cfg .cadenceSel), (0x030, .cfg .fsLo),
   (0x034, .cfg .fsHi), (0x038, .cfg .f0Lo), (0x03C, .cfg .f0Hi), (0x040, .cfg .f1Lo), (0x044, .cfg .f1Hi),
   (0x048, .cfg .sps), (0x04C, .cfg .packets), (0x050, .cfg .ppsLo), (0x054, .cfg .ppsHi),
   (0x058, .cfg .periodLo), (0x05C, .cfg .periodHi), (0x060, .cfg .defpLo), (0x064, .cfg .defpHi)]

/-- The decoder view and result registers of the map (10_state.md R30). -/
def resultRegMap : List (Nat × Reg) :=
  [(0x068, .byteSel), (0x06C, .byteData), (0x070, .nibbleCount), (0x074, .bitCount), (0x078, .decStatus),
   (0x080, .periodResLo), (0x084, .periodResHi), (0x088, .s2sLo), (0x08C, .s2sHi), (0x090, .ftw0), (0x094, .ftw1),
   (0x098, .packetSamplesLo), (0x09C, .packetSamplesHi), (0x0A0, .gapSamplesLo), (0x0A4, .gapSamplesHi),
   (0x0A8, .packetCount), (0x0B0, .totalSamplesLo), (0x0B4, .totalSamplesHi), (0x0B8, .totalDurationLo),
   (0x0BC, .totalDurationHi), (0x0C0, .emittedLo), (0x0C4, .emittedHi), (0x0C8, .phase)]

/-- The register map (10_state.md R30). Every aligned offset that is not listed is reserved (R60). -/
def regMap : List (Nat × Reg) := controlRegMap ++ resultRegMap

/-- The register at an offset, none where the offset is reserved (10_state.md R30, R60). -/
def regAt (offset : Offset) : Option Reg := regMap.lookup offset.toNat

/-- ID (10_state.md R31). -/
def idWord : Word := 0x46534B31

/-- VERSION (10_state.md R31). -/
def versionWord : Word := 0x00010000

/-- What a read of a register returns (10_state.md R31 to R59, 44_control.md R220). -/
def readReg (s : State) : Reg → Word
  | .id => idWord
  | .version => versionWord
  | .params => paramsWord s.build
  | .cmd => 0
  | .status => s.statusWord
  | .errFlags => s.errFlags.setWidth 32
  | .errCode => s.errCode.setWidth 32
  | .irqEn => s.irqEn.setWidth 32
  | .cfgWritten => s.cfg.written.setWidth 32
  | .cfg c => s.cfg.read c
  | .byteSel => s.byteSel
  | .byteData => s.payload.byteData s.byteSel
  | .nibbleCount => (BitVec.ofNat 16 s.payload.n).setWidth 32
  | .bitCount => BitVec.ofNat 32 s.payload.bitCount
  | .decStatus => s.payload.statusWord
  | .periodResLo => loHalf s.results.periodRes
  | .periodResHi => hiHalf s.results.periodRes
  | .s2sLo => loHalf s.results.s2s
  | .s2sHi => hiHalf s.results.s2s
  | .ftw0 => phaseField s.build s.results.ftw0
  | .ftw1 => phaseField s.build s.results.ftw1
  | .packetSamplesLo => loHalf s.results.packetSamples
  | .packetSamplesHi => hiHalf s.results.packetSamples
  | .gapSamplesLo => loHalf s.results.gapSamples
  | .gapSamplesHi => hiHalf s.results.gapSamples
  | .packetCount => s.results.packetCount
  | .totalSamplesLo => loHalf s.results.totalSamples
  | .totalSamplesHi => hiHalf s.results.totalSamples
  | .totalDurationLo => loHalf s.results.totalDuration
  | .totalDurationHi => hiHalf s.results.totalDuration
  | .emittedLo => loHalf s.engine.k
  | .emittedHi => hiHalf s.engine.k
  | .phase => phaseField s.build s.engine.acc

/-- What a read at an offset returns: reserved offsets read 0 (10_state.md R60). -/
def readOffset (s : State) (offset : Offset) : Word :=
  match regAt offset with
  | some r => readReg s r
  | none => 0

/-- RD offset (44_control.md R220): host register read. -/
def execRd (offset : Offset) (bits : Nat) (s : State) : Result :=
  if readShapeOk offset bits then .next (respond (.read (readOffset s offset)) s) else badRead s

/-- Perform a decoded command (30_encoding.md R104); the busy check is in each command. -/
def performCommand (c : Command) (s : State) : Result :=
  match c with
  | .nop => execNop s
  | .clrpay => execClrpay s
  | .pushc c => execPushc c s
  | .tune => execTune s
  | .build => execBuild s
  | .resolve => execResolve s
  | .clrst => execClrst s
  | .srst => execSrst s

/-- A write to CMD (30_encoding.md R104): ILLEGAL_CMD comes before the busy check. -/
def dispatchCmd (w : Word) (s : State) : Result :=
  match decodeCmd w with
  | .ok c => performCommand c s
  | .error _ => completed (raise .illegalCmd s)

/-- A full-word write at an aligned offset (44_control.md R221): writes to read-only registers and reserved offsets
have no effect. -/
def writeOffset (offset : Offset) (data : Word) (s : State) : Result :=
  match regAt offset with
  | some .cmd => dispatchCmd data s
  | some (.cfg c) => completed (writeCfg c data s)
  | some .irqEn => completed { s with irqEn := data.setWidth 3 }
  | some .byteSel => completed { s with byteSel := data }
  | some _ => completed s
  | none => completed s

/-- WR offset, data (44_control.md R221): host register write. -/
def execWr (offset : Offset) (bits : Nat) (strobes : BitVec 4) (data : Word) (s : State) : Result :=
  if writeShapeOk offset bits strobes then writeOffset offset data s else badWrite s

end Sys2Proof.Machine
end

