-- ==== Sys2Proof/Machine/Dispatch.lean ====
section
/-! DEFINITION. One arm per row of spec/opcode_table.json. -/

namespace Sys2Proof.Machine

def exec (i : Instr) (s : State) : Host.Outcome State Fault Refusal :=
  match i with
  | .nop => Sys2Proof.Machine.execNop s
  | .clrpay => Sys2Proof.Machine.execClrpay s
  | .pushc c => Sys2Proof.Machine.execPushc c s
  | .tune => Sys2Proof.Machine.execTune s
  | .build => Sys2Proof.Machine.execBuild s
  | .resolve => Sys2Proof.Machine.execResolve s
  | .clrst => Sys2Proof.Machine.execClrst s
  | .srst => Sys2Proof.Machine.execSrst s
  | .rd offset bits => Sys2Proof.Machine.execRd offset bits s
  | .wr offset bits strobes data => Sys2Proof.Machine.execWr offset bits strobes data s

end Sys2Proof.Machine
end

