-- ==== Sys2Proof/Machine/Tone.lean ====
section
/-! DEFINITION. The tone table (41_modulator.md R155 to R157). The entries of the reference table are computed: the
angle is reduced to the first eighth of the circle and cos and sin are evaluated there in fixed point with 160
fraction bits, then rounded once to binary32 (log entry 12). -/

namespace Sys2Proof.Machine

/-- 1 in fixed point with 160 fraction bits. -/
def fixOne : Nat := 2 ^ 160

/-- pi / 4 in fixed point with 160 fraction bits, rounded down. -/
def fixQuarterPi : Nat := 1147860701762054730346201299935827782113538756104

/-- 1 - x²/d₁ · (1 - x²/d₂ · (1 - …)) in fixed point, x² given: the alternating series of cos x with d = 1·2, 3·4, …,
and of (sin x)/x with d = 2·3, 4·5, …. -/
def fixSeries (x2 : Nat) : List Nat → Nat
  | [] => fixOne
  | d :: ds => fixOne - x2 * fixSeries x2 ds / (fixOne * d)

/-- The divisors of the series of cos. -/
def cosDivisors : List Nat :=
  [2, 12, 30, 56, 90, 132, 182, 240, 306, 380, 462, 552, 650, 756, 870, 992, 1122, 1260, 1406, 1560]

/-- The divisors of the series of (sin x)/x. -/
def sinDivisors : List Nat :=
  [6, 20, 42, 72, 110, 156, 210, 272, 342, 420, 506, 600, 702, 812, 930, 1056, 1190, 1332, 1482, 1640]

/-- The angle (pi/4) · r / m in fixed point. -/
def fixAngle (r m : Nat) : Nat := fixQuarterPi * r / m

/-- cos of the angle (pi/4) · r / m, 0 <= r <= m, in fixed point. -/
def fixCos (r m : Nat) : Nat := fixSeries (fixAngle r m * fixAngle r m / fixOne) cosDivisors

/-- sin of the angle (pi/4) · r / m, 0 <= r <= m, in fixed point. -/
def fixSin (r m : Nat) : Nat :=
  fixAngle r m * fixSeries (fixAngle r m * fixAngle r m / fixOne) sinDivisors / fixOne

/-- The binary32 encoding of ± a fixed-point magnitude. -/
def fixToBits32 (neg : Bool) (v : Nat) : Word := rn32 neg v fixOne

/-- Entry k of the reference table of 2^l entries (41_modulator.md R156): with 8k = o · 2^l + r, the angle 2·pi·k/2^l
lies in eighth o of the circle at (pi/4) · r / 2^l past its start. -/
def referenceEntry (l k : Nat) : Sample :=
  let m := 2 ^ l
  let r := 8 * k % m
  match 8 * k / m with
  | 0 => { i := fixToBits32 false (fixCos r m), q := fixToBits32 false (fixSin r m) }
  | 1 => { i := fixToBits32 false (fixSin (m - r) m), q := fixToBits32 false (fixCos (m - r) m) }
  | 2 => { i := fixToBits32 true (fixSin r m), q := fixToBits32 false (fixCos r m) }
  | 3 => { i := fixToBits32 true (fixCos (m - r) m), q := fixToBits32 false (fixSin (m - r) m) }
  | 4 => { i := fixToBits32 true (fixCos r m), q := fixToBits32 true (fixSin r m) }
  | 5 => { i := fixToBits32 true (fixSin (m - r) m), q := fixToBits32 true (fixCos (m - r) m) }
  | 6 => { i := fixToBits32 false (fixSin r m), q := fixToBits32 true (fixCos r m) }
  | _ => { i := fixToBits32 false (fixCos (m - r) m), q := fixToBits32 true (fixSin (m - r) m) }

/-- Entry k of the tone table of a build (41_modulator.md R155): k is 0 to 2^L - 1. None past the end of a listed
table that is too short, which no legal build has (log entry 13). -/
def toneEntry (b : Build) (k : Nat) : Option Sample :=
  match b.table with
  | .reference => some (referenceEntry b.L k)
  | .entries es => es[k]?

/-- The entry that the accumulator value a selects: its top L bits (41_modulator.md R157). -/
def toneIndex (b : Build) (a : Nat) : Nat := a / 2 ^ (b.P - b.L)

/-- The sample word of a sample: Q in bits 63..32, I in bits 31..0 (30_encoding.md R112). -/
def sampleWord (x : Sample) : DWord := x.q ++ x.i

end Sys2Proof.Machine
end

