-- ==== Sys2Proof/Machine/Engine.lean ====
section
/-! DEFINITION. The stream engine: its position (42_framer.md R183), the sample on offer and the engine step (R184). -/

namespace Sys2Proof.Machine

/-- The tuning word of a bit (41_modulator.md R150). -/
def Snapshot.ftw (p : Snapshot) (b : Bool) : Word := if b then p.ftw1 else p.ftw0

/-- The accumulator after a packet sample at position i whose bit is b (42_framer.md R184, 41_modulator.md R158): it
starts from 0 at the start of a unit and adds mod 2^P. -/
def nextAcc (bld : Build) (p : Snapshot) (i : Nat) (acc : Word) (b : Bool) : Word :=
  BitVec.ofNat 32 (((if i = 0 then 0 else acc.toNat) + (p.ftw b).toNat) % 2 ^ bld.P)

/-- A snapshot an engine step can be taken from: the divisions of 42_framer.md R184 are by unit and sps (log entry
11). -/
def Snapshot.usable (p : Snapshot) : Bool := decide (0 < p.unit) && decide (0 < p.sps)

/-- The sample of index k: its emission and the accumulator after it (42_framer.md R184). -/
def produce (bld : Build) (p : Snapshot) (k : Nat) (acc : Word) : Except Fault (Emission × Word) :=
  if !p.usable then .error .snapshotIllFormed
  else if k % p.unit < p.pkt then
    match p.bits[(k % p.unit) / p.sps]? with
    | none => .error .snapshotIllFormed
    | some b =>
      match toneEntry bld (toneIndex bld (nextAcc bld p (k % p.unit) acc b).toNat) with
      | none => .error .toneEntryAbsent
      | some x =>
        .ok ({ word := sampleWord x, sop := k % p.unit == 0, gap := false, last := k + 1 == p.total },
          nextAcc bld p (k % p.unit) acc b)
  else .ok ({ word := 0, sop := k % p.unit == 0, gap := true, last := k + 1 == p.total }, acc)

/-- The sample on offer to the sink, none while BUSY = 0 (20_memory.md R90). -/
def State.offer (s : State) : Option (Except Fault (Emission × Word)) :=
  if s.status.busy then some (produce s.build s.engine.snap s.engine.k.toNat s.engine.acc) else none

/-- The state after the sink has accepted an emission (42_framer.md R184). -/
def emit (e : Emission) (acc : Word) (s : State) : State :=
  { s with
    engine := { s.engine with k := s.engine.k + 1, acc := acc }
    stream := s.stream ++ [e]
    status := if e.last then { s.status with busy := false, done := true } else s.status }

/-- The engine step (42_framer.md R184), a joint step of engine and sink. With nothing on offer the sink's
acceptance changes nothing (log entry 7). -/
def engineStep (s : State) : Result :=
  match s.offer with
  | none => .next s
  | some (.error f) => .fault f
  | some (.ok (e, acc)) => .next (emit e acc s)

end Sys2Proof.Machine
end

