-- ==== Sys2Proof/Machine/Agents.lean ====
section
/-! DEFINITION. What each agent outside the block does in one step (00_scope.md R13): a host access, an acceptance by
the sink, the reset input. -/

namespace Sys2Proof.Machine

/-- A host access (20_memory.md R81, R83, R87). An access outside the window is not an access to this block, and
while the reset input is asserted the block performs none (70_reset_and_hazards.md R270): either way it does not
answer. -/
def hostAccess (page : Nat) (a : BusAccess) (s : State) : Result :=
  if s.resetPin || page != s.build.page then .next (respond .none s) else exec (accessInstr a) s

/-- The sink accepts (20_memory.md R90): an engine step, but none while the reset input is asserted
(70_reset_and_hazards.md R270). -/
def sinkAccept (s : State) : Result := if s.resetPin then .next s else engineStep s

/-- The reset input is asserted (70_reset_and_hazards.md R270). -/
def assertReset (s : State) : State := { applyReset s with resetPin := true }

/-- The reset input is deasserted: the block is left in the reset state (70_reset_and_hazards.md R270). With the
input not asserted there is nothing to release. -/
def releaseReset (s : State) : State := if s.resetPin then { applyReset s with resetPin := false } else s

/-- One step of an agent outside the block. -/
def perform (e : Event) (s : State) : Result :=
  match e with
  | .host page a => hostAccess page a s
  | .accept => sinkAccept s
  | .resetAssert => .next (assertReset s)
  | .resetRelease => .next (releaseReset s)

/-- The next event and the state without it. -/
def takeEvent (s : State) : Option (Event × State) :=
  match s.inputs with
  | [] => none
  | e :: rest => some (e, { s with inputs := rest })

/-- The state in which the host's next access is `a`: it stands first among the events, at the block's own page, and
the reset input is not asserted. -/
def placeAccess (a : BusAccess) (s : State) : State :=
  { s with inputs := .host s.build.page a :: s.inputs, resetPin := false }

end Sys2Proof.Machine
end

