-- ==== Sys2Proof/Machine/Step.lean ====
section
/-! DEFINITION. One step of the machine: the next event of `inputs` is performed. With no event to come no agent
moves, and the state stays as it is (log entry 2). -/

namespace Sys2Proof.Machine

/-- One step (00_scope.md R13). -/
def step (s : State) : Host.Outcome State Fault Refusal :=
  match takeEvent s with
  | none => .next s
  | some (e, s') => perform e s'

/-- s with the operation of a table word placed where step takes its next operation: the host's next access. -/
def State.withFetchWord (s : State) (nbits w : Nat) : State := placeAccess (tableAccess nbits w) s

end Sys2Proof.Machine
end

