-- ==== Sys2Proof/Safety.lean ====
section
/-! DEFINITION. What counts as a safe run, and the terms the statements use: sequences of operations and events, the
invariant of the machine, the press as a function of the sample index (42_framer.md R182), the values of binary64 data
as rationals, and the conformity of a tone table (41_modulator.md R155). -/

namespace Sys2Proof.Machine

/-! ## Sequences -/

/-- Operations performed one after the other (20_memory.md R88). -/
def execAll : List Instr → State → Result
  | [], s => .next s
  | i :: is, s =>
    match exec i s with
    | .next t => execAll is t
    | .fault f => .fault f
    | .refused r => .refused r

/-- Events performed one after the other (00_scope.md R13, R14). -/
def performAll : List Event → State → Result
  | [], s => .next s
  | e :: es, s =>
    match perform e s with
    | .next t => performAll es t
    | .fault f => .fault f
    | .refused r => .refused r

/-- How many samples the sink accepts in a sequence of events. -/
def acceptCount (es : List Event) : Nat := es.countP (fun e => e == .accept)

/-- An event that is neither the reset input nor an SRST: it cannot end a press (70_reset_and_hazards.md R276). -/
def Event.quiet : Event → Bool
  | .host _ a => accessInstr a != .srst
  | .accept => true
  | .resetAssert => false
  | .resetRelease => false

/-- A full-word read at an offset (30_encoding.md R106). -/
def readOp (offset : Offset) : Instr := .rd offset 32

/-- A full-word write at an offset with all strobes set (30_encoding.md R106). -/
def writeOp (offset : Offset) (data : Word) : Instr := .wr offset 32 0xF data

/-- The offset of a configuration register (10_state.md R30). -/
def cfgOffset : CfgReg → Offset
  | .cadenceSel => 0x028
  | .fsLo => 0x030
  | .fsHi => 0x034
  | .f0Lo => 0x038
  | .f0Hi => 0x03C
  | .f1Lo => 0x040
  | .f1Hi => 0x044
  | .sps => 0x048
  | .packets => 0x04C
  | .ppsLo => 0x050
  | .ppsHi => 0x054
  | .periodLo => 0x058
  | .periodHi => 0x05C
  | .defpLo => 0x060
  | .defpHi => 0x064

/-- A machine that goes on. -/
def Goes (r : Result) : Prop := ∃ t, r = .next t

/-- A press is complete (00_scope.md R14): nothing more is on offer and DONE is set. -/
def State.pressComplete (s : State) : Bool := s.status.done && !s.status.busy

/-! ## The error record, the register map and the decoded bytes, in the spec's own numbers -/

/-- The state with the error of this code recorded (60_exceptions.md R244): its flag set, and ERR_CODE taken if it
was 0. -/
def recordError (code : Nat) (s : State) : State :=
  { s with
    errFlags := s.errFlags ||| BitVec.ofNat 9 (2 ^ (code - 1))
    errCode := if s.errCode = 0 then BitVec.ofNat 4 code else s.errCode }

/-- The codes of the causes that one step can raise together, from the highest priority down (60_exceptions.md
R250). -/
def codePriority : List Nat := [5, 3, 4, 1, 2, 6]

/-- Bits 31..0 of a 64-bit value, as a number. -/
def lowWord (v : DWord) : Word := BitVec.ofNat 32 (v.toNat % 2 ^ 32)

/-- Bits 63..32 of a 64-bit value, as a number. -/
def highWord (v : DWord) : Word := BitVec.ofNat 32 (v.toNat / 2 ^ 32)

/-- STATUS as the sum of its fields (10_state.md R34). -/
def statusSum (s : State) : Nat :=
  s.status.busy.toNat + 2 * s.status.done.toNat + 4 * s.status.metaValid.toNat + 8 * s.status.gapClamped.toNat +
    16 * (if s.errFlags = 0 then 0 else 1) + 32 * s.status.resolveValid.toNat + 64 * s.status.tuneValid.toNat +
    128 * s.irqLevel.toNat

/-- DEC_STATUS as the sum of its fields (10_state.md R49). -/
def decStatusSum (p : Payload) : Nat :=
  (match p.phase with
    | .lead => 0
    | .body => 1
    | .trail => 2) + 4 * p.badHex.toNat + 8 * p.overflow.toNat

/-- What each register of the map of 10_state.md R30 reads, by offset, but for the identity registers (R31, R32) and
BYTE_DATA (R48). -/
def registerReads (s : State) : List (Offset × Word) :=
  [(0x010, 0), (0x014, BitVec.ofNat 32 (statusSum s)), (0x018, BitVec.ofNat 32 s.errFlags.toNat),
   (0x01C, BitVec.ofNat 32 s.errCode.toNat), (0x020, BitVec.ofNat 32 s.irqEn.toNat),
   (0x024, BitVec.ofNat 32 s.cfg.written.toNat), (0x028, BitVec.ofNat 32 s.cfg.cadenceSel.toNat),
   (0x030, s.cfg.fsLo), (0x034, s.cfg.fsHi), (0x038, s.cfg.f0Lo), (0x03C, s.cfg.f0Hi), (0x040, s.cfg.f1Lo),
   (0x044, s.cfg.f1Hi), (0x048, s.cfg.sps), (0x04C, s.cfg.packets), (0x050, s.cfg.ppsLo), (0x054, s.cfg.ppsHi),
   (0x058, s.cfg.periodLo), (0x05C, s.cfg.periodHi), (0x060, s.cfg.defpLo), (0x064, s.cfg.defpHi)] ++
  [(0x068, s.byteSel), (0x070, BitVec.ofNat 32 (s.payload.n % 2 ^ 16)),
   (0x074, BitVec.ofNat 32 (8 * ((s.payload.n + 1) / 2))), (0x078, BitVec.ofNat 32 (decStatusSum s.payload)),
   (0x080, lowWord s.results.periodRes), (0x084, highWord s.results.periodRes),
   (0x088, lowWord s.results.s2s), (0x08C, highWord s.results.s2s),
   (0x090, BitVec.ofNat 32 (s.results.ftw0.toNat % 2 ^ s.build.P)),
   (0x094, BitVec.ofNat 32 (s.results.ftw1.toNat % 2 ^ s.build.P)),
   (0x098, lowWord s.results.packetSamples), (0x09C, highWord s.results.packetSamples),
   (0x0A0, lowWord s.results.gapSamples), (0x0A4, highWord s.results.gapSamples),
   (0x0A8, s.results.packetCount),
   (0x0B0, lowWord s.results.totalSamples), (0x0B4, highWord s.results.totalSamples),
   (0x0B8, lowWord s.results.totalDuration), (0x0BC, highWord s.results.totalDuration),
   (0x0C0, lowWord s.engine.k), (0x0C4, highWord s.engine.k),
   (0x0C8, BitVec.ofNat 32 (s.engine.acc.toNat % 2 ^ s.build.P))]

/-- The offsets of the read-only registers (10_state.md R30). -/
def readOnlyOffsets : List Offset :=
  [0x000, 0x004, 0x008, 0x014, 0x018, 0x01C, 0x024, 0x06C, 0x070, 0x074, 0x078, 0x080, 0x084, 0x088, 0x08C, 0x090,
   0x094, 0x098, 0x09C, 0x0A0, 0x0A4, 0x0A8, 0x0B0, 0x0B4, 0x0B8, 0x0BC, 0x0C0, 0x0C4, 0x0C8]

/-- A reserved offset (10_state.md R60). -/
def reservedOffset (o : Offset) : Prop :=
  o.toNat % 4 = 0 ∧ (o.toNat = 0x00C ∨ o.toNat = 0x02C ∨ o.toNat = 0x07C ∨ o.toNat = 0x0AC ∨ 0x0CC ≤ o.toNat)

/-- q[m] of 40_bit_decoder.md R137, as a number. -/
def padDigit (p : Payload) (m : Nat) : Nat :=
  if p.n % 2 = 1 then if m = 0 then 0 else (p.nib.getD (m - 1) 0).toNat else (p.nib.getD m 0).toNat

/-- byte(k) of 40_bit_decoder.md R137. -/
def byteAt (p : Payload) (k : Nat) : Nat := 16 * padDigit p (2 * k) + padDigit p (2 * k + 1)

/-- bit(j) of 40_bit_decoder.md R137. -/
def bitAt (p : Payload) (j : Nat) : Nat := byteAt p (j / 8) / 2 ^ (7 - j % 8) % 2

/-- Two states that differ only in what no rule reads: payload cells past n, and the snapshot while BUSY = 0
(93_implementation_defined.md U2, U3). -/
structure SameButUnread (s s' : State) : Prop where
  rest : s' = { s with
    payload := { s.payload with nib := s'.payload.nib }
    engine := { s.engine with snap := s'.engine.snap } }
  cells : s'.payload.nib.length = s.payload.nib.length
  digits : s'.payload.nib.take s.payload.n = s.payload.nib.take s.payload.n
  snap : s.status.busy = true → s'.engine.snap = s.engine.snap

/-- An event whose step may clear the error record: CLRST, SRST or the reset input (10_state.md R35). -/
def Event.clears : Event → Bool
  | .host _ a => accessInstr a == .clrst || accessInstr a == .srst
  | .accept => false
  | .resetAssert => true
  | .resetRelease => true

/-- An event whose step may reset the block: SRST or the reset input (10_state.md R38). -/
def Event.resets : Event → Bool
  | .host _ a => accessInstr a == .srst
  | .accept => false
  | .resetAssert => true
  | .resetRelease => true

/-! ## The payload text (40_bit_decoder.md R131, R132, R136), by character code -/

/-- The six white-space codes (40_bit_decoder.md R131). -/
def isWsCode (c : Byte) : Bool := (9 ≤ c.toNat && c.toNat ≤ 13) || c.toNat == 32

/-- The codes that are HEX after lower-casing (40_bit_decoder.md R131). -/
def isHexCode (c : Byte) : Bool :=
  (48 ≤ c.toNat && c.toNat ≤ 57) || (65 ≤ c.toNat && c.toNat ≤ 70) || (97 ≤ c.toNat && c.toNat ≤ 102)

/-- The value of a HEX code of either case (40_bit_decoder.md R132). -/
def hexCodeValue (c : Byte) : Nat :=
  if c.toNat ≤ 57 then c.toNat - 48 else if c.toNat ≤ 70 then c.toNat - 55 else c.toNat - 87

/-- The text is W1 ++ H ++ W2 (40_bit_decoder.md R136). -/
def PayloadText (cs : List Byte) : Prop :=
  ∃ w1 h w2, cs = w1 ++ h ++ w2 ∧ (∀ c ∈ w1, isWsCode c) ∧ (∀ c ∈ h, isHexCode c) ∧ (∀ c ∈ w2, isWsCode c)

/-! ## The press as a function of the sample index -/

/-- The tuning word of packet sample i, FTW(bits[i div s]) (41_modulator.md R154, R158). -/
def sampleFtw (p : Snapshot) (i : Nat) : Nat := (p.ftw (p.bits.getD (i / p.sps) false)).toNat

/-- acc_i of the recurrence of 41_modulator.md R158, with acc_(-1) = 0. -/
def phaseAt (b : Build) (p : Snapshot) : Nat → Nat
  | 0 => sampleFtw p 0 % 2 ^ b.P
  | i + 1 => (phaseAt b p i + sampleFtw p (i + 1)) % 2 ^ b.P

/-- Entry k of the table, all zero where a table that is too short has none. -/
def toneAt (b : Build) (k : Nat) : Sample := (toneEntry b k).getD { i := 0, q := 0 }

/-- press(k) of 42_framer.md R182: the whole-buffer value of sample k. -/
def pressSample (b : Build) (p : Snapshot) (k : Nat) : Emission :=
  { word := if k % p.unit < p.pkt then sampleWord (toneAt b (phaseAt b p (k % p.unit) / 2 ^ (b.P - b.L))) else 0
    sop := k % p.unit == 0
    gap := decide (p.pkt ≤ k % p.unit)
    last := k + 1 == p.total }

/-! ## The invariant -/

/-- The payload buffer: N cells, at most N digits, and LEAD exactly while no digit is stored (10_state.md R61). -/
structure PayloadOk (cap : Nat) (p : Payload) : Prop where
  cells : p.nib.length = cap
  count : p.n ≤ cap
  lead : p.phase = .lead ↔ p.n = 0

/-- The error record: ERR_CODE is 0 exactly when no flag is set, and otherwise names a flag that is set
(10_state.md R35, R36). -/
structure RecordOk (s : State) : Prop where
  clear : s.errCode = 0 ↔ s.errFlags = 0
  named : s.errCode ≠ 0 → s.errFlags.getLsbD (s.errCode.toNat - 1) = true

/-- The result registers: P-bit tuning words, S2S below 2^63 (10_state.md R51), the length law (42_framer.md R172). -/
structure ResultsOk (b : Build) (r : Results) : Prop where
  ftw0 : r.ftw0.toNat < 2 ^ b.P
  ftw1 : r.ftw1.toNat < 2 ^ b.P
  s2s : r.s2s.toNat < 2 ^ 63
  total : r.totalSamples.toNat = r.packetCount.toNat * (r.packetSamples.toNat + r.gapSamples.toNat)

/-- A snapshot that a BUILD can have written (10_state.md R63, 42_framer.md R170, R178). -/
structure SnapshotOk (b : Build) (p : Snapshot) : Prop where
  sps : 0 < p.sps
  unit : 0 < p.unit
  pkt : p.pkt = p.bits.length * p.sps
  fits : p.pkt ≤ p.unit
  total : p.total = p.packets * p.unit
  bound : p.total < 2 ^ 64
  ftw0 : p.ftw0.toNat < 2 ^ b.P
  ftw1 : p.ftw1.toNat < 2 ^ b.P

/-- The engine (42_framer.md R178): a P-bit accumulator, k at most TOTAL_SAMPLES, and a usable snapshot of the
present press while BUSY = 1. -/
structure EngineOk (s : State) : Prop where
  acc : s.engine.acc.toNat < 2 ^ s.build.P
  position : s.engine.k.toNat ≤ s.results.totalSamples.toNat
  snap : s.status.busy = true → SnapshotOk s.build s.engine.snap
  total : s.status.busy = true → s.engine.snap.total = s.results.totalSamples.toNat
  left : s.status.busy = true → s.engine.k.toNat < s.engine.snap.total
  notDone : s.status.busy = true → s.status.done = false

/-- While the reset input is asserted the block is in the reset state (70_reset_and_hazards.md R270). -/
def HeldInReset (s : State) : Prop := s.resetPin = true → applyReset s = s

/-- The invariant of the machine. -/
structure Inv (s : State) : Prop where
  build : s.build.legal = true
  payload : PayloadOk s.build.N s.payload
  record : RecordOk s
  results : ResultsOk s.build s.results
  engine : EngineOk s
  held : HeldInReset s

/-- The state of a press in progress: a snapshot that a BUILD can have written, samples left, and the accumulator
where the packet function has it (41_modulator.md R158, 42_framer.md R183). -/
structure Streaming (s : State) : Prop where
  build : s.build.legal = true
  busy : s.status.busy = true
  pin : s.resetPin = false
  snap : SnapshotOk s.build s.engine.snap
  left : s.engine.k.toNat < s.engine.snap.total
  phase : ∀ i, s.engine.k.toNat % s.engine.snap.unit = i + 1 → i + 1 < s.engine.snap.pkt →
    s.engine.acc.toNat = phaseAt s.build s.engine.snap i

/-- The VALID bits mean what 10_state.md R34 says: the results are what the command would compute from the present
registers. -/
structure ValidBitsOk (s : State) : Prop where
  resolve : s.status.resolveValid = true → ∃ p n, s.cfg.cadenceErrors = [] ∧ s.cfg.cadence = some (p, n) ∧
    s.results.periodRes = bits64 p ∧ s.results.s2s = BitVec.ofNat 64 n
  tune : s.status.tuneValid = true → s.cfg.tuneOk = true ∧
    s.results.ftw0 = ftw s.build.P s.cfg.f0 s.cfg.fs ∧ s.results.ftw1 = ftw s.build.P s.cfg.f1 s.cfg.fs
  metadata : s.status.metaValid = true → ∃ p n, s.buildErrors = [] ∧ s.cfg.cadence = some (p, n) ∧
    s.results.packetSamples = BitVec.ofNat 64 s.pkt ∧
    s.results.gapSamples = BitVec.ofNat 64 (gapLen s.pkt n) ∧
    s.results.packetCount = s.cfg.packets ∧
    s.results.totalSamples = BitVec.ofNat 64 (s.total n) ∧
    s.results.totalDuration = bits64 (totalDuration (s.total n) s.cfg.fs)

/-! ## Values of binary64 and binary32 data -/

/-- The rational value of a finite datum of magnitude mag (00_scope.md R10, real(x)). -/
def realOf (neg : Bool) (mag : Nat) : ℚ := if neg then -(mag / 2 ^ 1074 : ℚ) else (mag / 2 ^ 1074 : ℚ)

/-- x is an integer nearest to r, the even one of two (rint of 00_scope.md R10). -/
def NearestEven (x : ℤ) (r : ℚ) : Prop := |(x : ℚ) - r| ≤ 1 / 2 ∧ (|(x : ℚ) - r| = 1 / 2 → Even x)

/-- x is RNE64 of the real of magnitude r and of sign neg (00_scope.md R10): infinite from 2^1024 - 2^970 on, and else
a finite value that has an encoding, than which no binary64 magnitude is nearer to r, the one whose encoding ends in 0
where another is as near. -/
def RoundsTo (neg : Bool) (r : ℚ) (x : F64) : Prop :=
  if (2 ^ 1024 - 2 ^ 970 : ℚ) ≤ r then x = .inf neg
  else ∃ m, x = .fin neg m ∧ f64 (bits64 (.fin neg m)) = .fin neg m ∧
    ∀ (w : DWord) (neg' : Bool) (m' : Nat), f64 w = .fin neg' m' → m' ≠ m →
      |(m : ℚ) / 2 ^ 1074 - r| ≤ |(m' : ℚ) / 2 ^ 1074 - r| ∧
      (|(m : ℚ) / 2 ^ 1074 - r| = |(m' : ℚ) / 2 ^ 1074 - r| → (bits64 (.fin neg m)).getLsbD 0 = false)

/-- FS is written, finite and greater than 0 (43_cadence.md R202, R204; 10_state.md R38, bits 0 and 1). -/
def FsUsable (c : CfgRegs) : Prop :=
  c.written.getLsbD 0 = true ∧ c.written.getLsbD 1 = true ∧
    ∃ mag, f64 (reg64 c.fsHi c.fsLo) = .fin false mag ∧ 0 < mag

/-- The rational value of a binary32 encoding with a biased exponent below 255 (30_encoding.md R111). -/
def real32 (w : Word) : ℚ :=
  let e := (w.extractLsb' 23 8).toNat
  let f := (w.extractLsb' 0 23).toNat
  let m : ℚ := if e = 0 then (f : ℚ) / 2 ^ 149 else (2 ^ 23 + f : ℚ) * 2 ^ (e - 1) / 2 ^ 149
  if w[31] then -m else m

/-- A finite binary32 encoding (30_encoding.md R111). -/
def finite32 (w : Word) : Bool := (w.extractLsb' 23 8) != 255

/-- A conforming entry k of a table of 2^l entries (41_modulator.md R155 (a) and (b)). -/
def ConformingEntry (l k : Nat) (x : Sample) : Prop :=
  finite32 x.i = true ∧ finite32 x.q = true ∧
    |((real32 x.i : ℚ) : ℝ) - Real.cos (2 * Real.pi * k / 2 ^ l)| ≤ (1 / 2 : ℝ) ^ 24 ∧
    |((real32 x.q : ℚ) : ℝ) - Real.sin (2 * Real.pi * k / 2 ^ l)| ≤ (1 / 2 : ℝ) ^ 24

/-- A conforming table (41_modulator.md R155): every entry is there and conforms. -/
def ConformingTable (b : Build) : Prop :=
  ∀ k, k < 2 ^ b.L → ∃ x, toneEntry b k = some x ∧ ConformingEntry b.L k x

end Sys2Proof.Machine
end

