-- ==== Sys2Proof/Certificates/Slice0/Obligations.lean ====
section
/-! DEFINITION. The statements for the provers, by the families of the opcode table and the kinds of state. -/

open Sys2Proof Sys2Proof.Machine

/-! ## Encoding and decoding -/

/-- Decode and encode agree (30_encoding.md section 1 and 2). That a legal command word written to CMD has one
spelling is the model's choice (log entry 10). -/
def Obligations.DecodeOfEncode : Prop :=
  ∀ i : Instr, i.wellFormed = true → decode (encode i) = .ok i

/-- The command decoder (30_encoding.md R102) reads exactly the opcode map of R101. -/
def Obligations.CommandDecoderMatchesOpcodeMap : Prop :=
  ∀ w : Word,
    (legalCmdWord w = true ↔ ∃ c, decodeCmd w = .ok c) ∧
    (∀ c, decodeCmd w = .ok c ↔ w = encodeCmd c)

/-- The illegal words of 30_encoding.md R103, and what issuing one does, busy or not. -/
def Obligations.IllegalWordsRaiseIllegalCmd : Prop :=
  ∀ (w : Word) (s : State),
    ((∃ e, decodeCmd w = .error e) ↔
      (w.toNat / 2 ^ 16 ≠ 0 ∨ 8 ≤ w.toNat % 2 ^ 8 ∨ (w.toNat % 2 ^ 8 ≠ 2 ∧ w.toNat / 2 ^ 8 % 2 ^ 8 ≠ 0))) ∧
    ((∃ e, decodeCmd w = .error e) →
      exec (writeOp cmdOffset w) s = .next { recordError 7 s with resp := .written })

/-- A few words of spec/opcode_table.json, written out from 30_encoding.md R101 and R106. The map of table words to
bus accesses, that a word of up to 16 bits is one and a write without data bits has data 0 and all strobes, is the
model's choice (log entry 10). -/
def Obligations.TableWordsDecode : Prop :=
  decodeTableWord 32 0x00000000 = some .nop ∧ decodeTableWord 32 0x00000001 = some .clrpay ∧
  decodeTableWord 32 0x00004102 = some (.pushc 0x41) ∧ decodeTableWord 32 0x00000003 = some .tune ∧
  decodeTableWord 32 0x00000004 = some .build ∧ decodeTableWord 32 0x00000005 = some .resolve ∧
  decodeTableWord 32 0x00000006 = some .clrst ∧ decodeTableWord 32 0x00000007 = some .srst ∧
  decodeTableWord 32 0x00010004 = none ∧ decodeTableWord 32 0x00000108 = none ∧
  decodeTableWord 16 0b0000000010100 = some (.rd 0x014 32) ∧
  decodeTableWord 16 0b1000001001000 = some (.wr 0x048 32 0xF 0) ∧ decodeTableWord 16 0b0000000010110 = none

/-- A step at a delivered host access runs the operation the access asks for: the one it decodes to, where its shape
is legal (20_memory.md section 1, 30_encoding.md section 1 and 2). -/
def Obligations.StepRunsDecodedInstruction : Prop :=
  ∀ (s : State) (a : BusAccess) (rest : List Event),
    s.inputs = .host s.build.page a :: rest → s.resetPin = false →
    step s = exec (accessInstr a) { s with inputs := rest } ∧
    ∀ i, decode a = .ok i → step s = exec i { s with inputs := rest }

/-- A table word that decodes runs as the very next step. The placing is the model's (log entry 2). -/
def Obligations.FetchedWordRuns : Prop :=
  ∀ (s : State) (nbits w : Nat) (i : Instr), decodeTableWord nbits w = some i →
    step (s.withFetchWord nbits w) = exec i { s with resetPin := false }

/-- 20_memory.md R83: an access of bad shape gets an error response and raises BUS_ERROR, and changes nothing
else. -/
def Obligations.BadShapeAccessRaisesBusError : Prop :=
  ∀ (a : BusAccess) (s : State),
    (accessOffset a).toNat % 4 ≠ 0 ∨ a.bits ≠ 32 ∨ (accessIsWrite a = true ∧ a.strobes ≠ 0xF) →
    exec (accessInstr a) s = .next { recordError 9 s with
      resp := if accessIsWrite a then .writeError else .readError 0 }

/-- An access outside the window is not an access to this block (20_memory.md section 1). That it leaves `resp` at
`none` is the model's (log entry 8). -/
def Obligations.AccessOutsideWindowIgnored : Prop :=
  ∀ (s : State) (page : Nat) (a : BusAccess) (rest : List Event),
    s.inputs = .host page a :: rest → page ≠ s.build.page →
    step s = .next { s with inputs := rest, resp := .none }

/-- Issuing a command is writing its word to CMD (30_encoding.md section 1 and 4). -/
def Obligations.CmdWriteIsTheCommand : Prop :=
  ∀ (s : State) (c : Command), exec (writeOp cmdOffset (encodeCmd c)) s = exec c.toInstr s

/-! ## Register access -/

/-- 10_state.md R31. -/
def Obligations.IdentityReadsConstant : Prop :=
  ∀ s : State, exec (readOp 0x000) s = .next { s with resp := .read 0x46534B31 } ∧
    exec (readOp 0x004) s = .next { s with resp := .read 0x00010000 }

/-- 10_state.md R32, for every legal build, and for the reference build of 00_scope.md R6. -/
def Obligations.ParamsReadsBuildParameters : Prop :=
  (∀ s : State, s.build.legal = true →
    exec (readOp 0x008) s = .next { s with
      resp := .read (BitVec.ofNat 32 (s.build.N * 2 ^ 16 + s.build.L * 2 ^ 8 + s.build.P)) }) ∧
  ∀ s : State, s.build = .reference → exec (readOp 0x008) s = .next { s with resp := .read 0x01000C20 }

/-- The register map: a read returns the register's value now and changes nothing (10_state.md R30, 44_control.md
R220). -/
def Obligations.RegisterMapReads : Prop :=
  ∀ (s : State) (o : Offset) (v : Word), (o, v) ∈ registerReads s →
    exec (readOp o) s = .next { s with resp := .read v }

/-- Every read of legal shape completes and has no side effect (20_memory.md section 2). -/
def Obligations.ReadHasNoSideEffect : Prop :=
  ∀ (s : State) (o : Offset), o.toNat % 4 = 0 →
    ∃ v, exec (readOp o) s = .next { s with resp := .read v }

/-- 10_state.md R60. -/
def Obligations.ReservedOffsetsReadZeroIgnoreWrites : Prop :=
  ∀ (s : State) (o : Offset) (v : Word), reservedOffset o →
    exec (readOp o) s = .next { s with resp := .read 0 } ∧
    exec (writeOp o v) s = .next { s with resp := .written }

/-- Writes to read-only registers are ignored with no error (10_state.md section 1, 44_control.md section 2). -/
def Obligations.ReadOnlyRegistersIgnoreWrites : Prop :=
  ∀ (s : State) (o : Offset) (v : Word), o ∈ readOnlyOffsets →
    exec (writeOp o v) s = .next { s with resp := .written }

/-- 10_state.md R47: a host write to a configuration register, accepted or refused. -/
def Obligations.ConfigurationWrite : Prop :=
  ∀ (s : State) (x : CfgReg) (v : Word),
    if s.status.busy = true then
      exec (writeOp (cfgOffset x) v) s = .next { recordError 8 s with resp := .written }
    else ∃ c : CfgRegs,
      exec (writeOp (cfgOffset x) v) s = .next { s with
        cfg := c
        status := { s.status with
          metaValid := false
          resolveValid := s.status.resolveValid &&
            !([.fsLo, .fsHi, .cadenceSel, .ppsLo, .ppsHi, .periodLo, .periodHi, .defpLo, .defpHi] :
              List CfgReg).contains x
          tuneValid := s.status.tuneValid && !([.fsLo, .fsHi, .f0Lo, .f0Hi, .f1Lo, .f1Hi] : List CfgReg).contains x }
        resp := .written } ∧
      c.read x = (if x = .cadenceSel then v &&& 3 else v) ∧
      (∀ y, y ≠ x → c.read y = s.cfg.read y) ∧
      (∀ b, b < 14 → c.written.getLsbD b =
        (s.cfg.written.getLsbD b || (x != .cadenceSel && ((cfgOffset x).toNat - 0x030) / 4 == b)))

/-- IRQ_EN and BYTE_SEL are written whether the block is busy or not (10_state.md sections 2 and 4). -/
def Obligations.ControlRegisterWrites : Prop :=
  ∀ (s : State) (v : Word),
    exec (writeOp 0x020 v) s = .next { s with irqEn := BitVec.ofNat 3 (v.toNat % 8), resp := .written } ∧
    exec (writeOp 0x068 v) s = .next { s with byteSel := v, resp := .written }

/-- The order of two configuration writes does not matter, of the two halves of a value among them
(70_reset_and_hazards.md section 3). -/
def Obligations.ConfigurationWritesCommute : Prop :=
  ∀ (s : State) (x y : CfgReg) (v w : Word), x ≠ y →
    execAll [writeOp (cfgOffset x) v, writeOp (cfgOffset y) w] s =
      execAll [writeOp (cfgOffset y) w, writeOp (cfgOffset x) v] s

/-- Writing a configuration register twice with the same value is writing it once (20_memory.md section 2). -/
def Obligations.ConfigurationWriteIdempotent : Prop :=
  ∀ (s : State) (x : CfgReg) (v : Word),
    execAll [writeOp (cfgOffset x) v, writeOp (cfgOffset x) v] s = execAll [writeOp (cfgOffset x) v] s

/-- 60_exceptions.md R255; STATUS.IRQ, bit 7, reads the level. -/
def Obligations.InterruptLevelFormula : Prop :=
  ∀ s : State,
    (s.irqLevel = true ↔ (s.irqEn.getLsbD 0 = true ∧ s.status.done = true) ∨
      (s.irqEn.getLsbD 1 = true ∧ s.errFlags ≠ 0) ∨
      (s.irqEn.getLsbD 2 = true ∧ s.status.gapClamped = true)) ∧
    ∃ v : Word, exec (readOp 0x014) s = .next { s with resp := .read v } ∧ v.getLsbD 7 = s.irqLevel

/-! ## The bit decoder -/

/-- 40_bit_decoder.md R133 while idle: the cells are not cleared. -/
def Obligations.ClrpayClearsPayload : Prop :=
  ∀ s : State, s.status.busy = false →
    exec .clrpay s = .next { s with
      payload := { nib := s.payload.nib, n := 0, phase := .lead, badHex := false, overflow := false }
      status := { s.status with metaValid := false }
      resp := .written }

/-- 40_bit_decoder.md R134, by character code, busy or not, with its CMD word. -/
def Obligations.PushcFeedsOneCharacter : Prop :=
  ∀ (s : State) (c : Byte),
    decodeCmd (BitVec.ofNat 32 (256 * c.toNat + 2)) = .ok (.pushc c) ∧
    let quiet : State := { s with status := { s.status with metaValid := false }, resp := .written }
    exec (.pushc c) s = .next (
      if s.status.busy then { recordError 8 s with resp := .written }
      else if isWsCode c then
        if s.payload.phase = .body then { quiet with payload := { s.payload with phase := .trail } } else quiet
      else if isHexCode c then
        if s.payload.phase = .trail then recordError 1 { quiet with payload := { s.payload with badHex := true } }
        else if s.payload.n = s.build.N then
          recordError 2 { quiet with payload := { s.payload with overflow := true } }
        else { quiet with
          payload := { s.payload with
            nib := s.payload.nib.set s.payload.n (BitVec.ofNat 4 (hexCodeValue c))
            n := s.payload.n + 1
            phase := .body } }
      else recordError 1 { quiet with payload := { s.payload with badHex := true } })

/-- 40_bit_decoder.md R136: which texts are accepted after a CLRPAY, or in the cleared buffer that reset leaves, and
what they leave in the buffer. -/
def Obligations.PayloadTextLanguage : Prop :=
  ∀ (s : State) (start : List Instr) (cs : List Byte), s.status.busy = false → s.build.legal = true →
    s.payload.nib.length = s.build.N →
    start = [.clrpay] ∨ start = [] ∧ s.payload.n = 0 ∧ s.payload.phase = .lead ∧ s.payload.badHex = false ∧
      s.payload.overflow = false →
    ∃ t, execAll (start ++ cs.map .pushc) s = .next t ∧
      (t.payload.badHex = false ↔ PayloadText cs) ∧
      (t.payload.badHex = false → t.payload.overflow = false →
        t.payload.n = (cs.filter isHexCode).length ∧
        (t.payload.nib.take t.payload.n).map BitVec.toNat = (cs.filter isHexCode).map hexCodeValue)

/-- 40_bit_decoder.md R137: the decode function. -/
def Obligations.DecodeFunctionBits : Prop :=
  ∀ p : Payload, p.n ≤ p.nib.length →
    p.bits.length = 8 * ((p.n + 1) / 2) ∧
    (∀ j, j < 8 * ((p.n + 1) / 2) → p.bits[j]? = some (decide (bitAt p j = 1)))

/-- 10_state.md section 4: BYTE_DATA reads the selected decoded byte with VALID, and 0 past the end. -/
def Obligations.ByteDataReads : Prop :=
  ∀ s : State, s.payload.n ≤ s.payload.nib.length →
    exec (readOp 0x06C) s = .next { s with resp := .read (
      if s.byteSel.toNat < (s.payload.n + 1) / 2 then BitVec.ofNat 32 (2 ^ 8 + byteAt s.payload s.byteSel.toNat)
      else 0) }

/-! ## The modulator -/

/-- 41_modulator.md R153: tune_ok, with "the quotient is finite" said of the exact quotient (00_scope.md R10). -/
def Obligations.TuneOkConditions : Prop :=
  ∀ c : CfgRegs, c.tuneOk = true ↔
    (∀ b, b < 6 → c.written.getLsbD b = true) ∧
    ∃ (mf m0 m1 : Nat) (n0 n1 : Bool),
      f64 (reg64 c.fsHi c.fsLo) = .fin false mf ∧ 0 < mf ∧
      f64 (reg64 c.f0Hi c.f0Lo) = .fin n0 m0 ∧ f64 (reg64 c.f1Hi c.f1Lo) = .fin n1 m1 ∧
      (m0 : ℚ) / mf < 2 ^ 1024 - 2 ^ 970 ∧ (m1 : ℚ) / mf < 2 ^ 1024 - 2 ^ 970

/-- TUNE while idle (41_modulator.md section 1): the tuning words, or CONFIG_ERROR and nothing else. -/
def Obligations.TuneWritesTuningWords : Prop :=
  ∀ s : State, s.status.busy = false →
    exec .tune s = .next (
      if s.cfg.tuneOk then
        { s with
          results := { s.results with
            ftw0 := ftw s.build.P (f64 (reg64 s.cfg.f0Hi s.cfg.f0Lo)) (f64 (reg64 s.cfg.fsHi s.cfg.fsLo))
            ftw1 := ftw s.build.P (f64 (reg64 s.cfg.f1Hi s.cfg.f1Lo)) (f64 (reg64 s.cfg.fsHi s.cfg.fsLo)) }
          status := { s.status with tuneValid := true }
          resp := .written }
      else { recordError 5 s with resp := .written })

/-- 41_modulator.md R151: the tuning word is the nearest integer to q · 2^P, ties to even, mod 2^P. -/
def Obligations.TuningWordNearest : Prop :=
  ∀ (p : Nat) (f fs : F64) (neg : Bool) (mag : Nat), p ≤ 32 → f64Div f fs = .fin neg mag →
    ∃ x : ℤ, NearestEven x (realOf neg mag * 2 ^ p) ∧ ((ftw p f fs).toNat : ℤ) = x % 2 ^ p

/-- The quadrant points of the reference table (41_modulator.md section 2). -/
def Obligations.ReferenceTableQuadrants : Prop :=
  (∀ l, 2 ≤ l →
    referenceEntry l 0 = { i := 0x3F800000, q := 0x00000000 } ∧
    referenceEntry l (2 ^ (l - 2)) = { i := 0x00000000, q := 0x3F800000 } ∧
    referenceEntry l (2 ^ (l - 1)) = { i := 0xBF800000, q := 0x00000000 } ∧
    referenceEntry l (3 * 2 ^ (l - 2)) = { i := 0x00000000, q := 0xBF800000 }) ∧
  referenceEntry 1 0 = { i := 0x3F800000, q := 0x00000000 } ∧
  referenceEntry 1 1 = { i := 0xBF800000, q := 0x00000000 }

/-- The computed reference table meets the conditions that 41_modulator.md R155 sets for every conforming table. How its
entries are computed is the model's choice (log entry 12). -/
def Obligations.ReferenceTableConforms : Prop :=
  ∀ b : Build, b.legal = true → b.table = .reference → ConformingTable b

/-- 41_modulator.md R159: the closed form of the accumulator. -/
def Obligations.PhaseClosedForm : Prop :=
  ∀ (b : Build) (p : Snapshot) (i : Nat),
    phaseAt b p i = (∑ m ∈ Finset.range (i + 1), sampleFtw p m) % 2 ^ b.P ∧
    ((∀ m, m ≤ i → p.bits[m / p.sps]? = some false) → phaseAt b p i = ((i + 1) * p.ftw0.toNat) % 2 ^ b.P) ∧
    ((∀ m, m ≤ i → p.bits[m / p.sps]? = some true) → phaseAt b p i = ((i + 1) * p.ftw1.toNat) % 2 ^ b.P)

/-! ## The cadence resolver -/

/-- 43_cadence.md R201: the three branches of resolve_period. -/
def Obligations.ResolvePeriodBranches : Prop :=
  ∀ c : CfgRegs, c.resolvePeriod =
    if c.cadenceSel.getLsbD 0 then
      if !(c.written.getLsbD 8 && c.written.getLsbD 9) then .error .configError
      else if !(f64 (reg64 c.ppsHi c.ppsLo)).isPos then .error .invalidCadence
      else .ok (f64Div (.fin false (2 ^ 1074)) (f64 (reg64 c.ppsHi c.ppsLo)))
    else if c.cadenceSel.getLsbD 1 then
      if !(c.written.getLsbD 10 && c.written.getLsbD 11) then .error .configError
      else if !(f64 (reg64 c.periodHi c.periodLo)).isPos then .error .invalidCadence
      else .ok (f64 (reg64 c.periodHi c.periodLo))
    else
      if !(c.written.getLsbD 12 && c.written.getLsbD 13) then .error .configError
      else if !(f64 (reg64 c.defpHi c.defpLo)).isPos then .error .invalidCadence
      else .ok (f64 (reg64 c.defpHi c.defpLo))

/-- 43_cadence.md R202: the start-to-start count is the product rounded to binary64 and then to the nearest integer,
ties to even, below 2^63; otherwise CADENCE_RANGE. -/
def Obligations.StartToStartNearest : Prop :=
  ∀ (c : CfgRegs) (period : F64), c.resolvePeriod = .ok period →
    (¬ FsUsable c → c.startToStart period = .error .configError) ∧
    (FsUsable c →
      (∃ n mag, c.startToStart period = .ok n ∧ f64Mul period (f64 (reg64 c.fsHi c.fsLo)) = .fin false mag ∧
        NearestEven n (realOf false mag) ∧ n < 2 ^ 63) ∨
      (c.startToStart period = .error .cadenceRange ∧
        ∀ mag, f64Mul period (f64 (reg64 c.fsHi c.fsLo)) = .fin false mag →
          ∃ x : ℤ, NearestEven x (realOf false mag) ∧ 2 ^ 63 ≤ x))

/-- 43_cadence.md R204: which causes cadence_errors holds, and that with none of them both values exist. -/
def Obligations.NoCadenceErrorMeansValues : Prop :=
  ∀ c : CfgRegs,
    (.configError ∈ c.cadenceErrors ↔ c.resolvePeriod = .error .configError ∨ ¬ FsUsable c) ∧
    (.invalidCadence ∈ c.cadenceErrors ↔ c.resolvePeriod = .error .invalidCadence) ∧
    (.cadenceRange ∈ c.cadenceErrors ↔
      ∃ period e, c.resolvePeriod = .ok period ∧ FsUsable c ∧ c.startToStart period = .error e) ∧
    (∀ e ∈ c.cadenceErrors, e = .configError ∨ e = .invalidCadence ∨ e = .cadenceRange) ∧
    (c.cadenceErrors = [] ↔ ∃ period n, c.resolvePeriod = .ok period ∧ c.startToStart period = .ok n)

/-- RESOLVE while idle (43_cadence.md section 1): the period and the count, or the errors and nothing else. -/
def Obligations.ResolveWritesCadence : Prop :=
  ∀ s : State, s.status.busy = false →
    if s.cfg.cadenceErrors = [] then
      ∃ period n, s.cfg.resolvePeriod = .ok period ∧ s.cfg.startToStart period = .ok n ∧
        exec .resolve s = .next { s with
          results := { s.results with periodRes := bits64 period, s2s := BitVec.ofNat 64 n }
          status := { s.status with resolveValid := true }
          resp := .written }
    else exec .resolve s = .next { raiseAll s.cfg.cadenceErrors s with resp := .written }

/-! ## The packet framer -/

/-- 42_framer.md R176: which causes BUILD finds. -/
def Obligations.BuildErrorCauses : Prop :=
  ∀ s : State,
    (.configError ∈ s.buildErrors ↔ s.cfg.tuneOk = false ∨ .configError ∈ s.cfg.cadenceErrors ∨
      s.cfg.written.getLsbD 6 = false ∨ s.cfg.sps = 0 ∨ s.cfg.written.getLsbD 7 = false) ∧
    (.invalidCadence ∈ s.buildErrors ↔ .invalidCadence ∈ s.cfg.cadenceErrors) ∧
    (.cadenceRange ∈ s.buildErrors ↔ .cadenceRange ∈ s.cfg.cadenceErrors) ∧
    (.invalidHex ∈ s.buildErrors ↔ s.payload.badHex = true) ∧
    (.payloadOverflow ∈ s.buildErrors ↔ s.payload.overflow = true) ∧
    (.lengthRange ∈ s.buildErrors ↔
      (∀ e, e ≠ .lengthRange → e ∉ s.buildErrors) ∧
      ∃ period n, s.cfg.resolvePeriod = .ok period ∧ s.cfg.startToStart period = .ok n ∧
        2 ^ 64 ≤ s.cfg.packets.toNat * max (8 * ((s.payload.n + 1) / 2) * s.cfg.sps.toNat) n) ∧
    .illegalCmd ∉ s.buildErrors ∧ .busyReject ∉ s.buildErrors ∧ .busError ∉ s.buildErrors

/-- 42_framer.md R181 (with R170, R173, R175, R185): the success path of BUILD while idle. -/
def Obligations.BuildStartsPress : Prop :=
  ∀ s : State, s.status.busy = false → s.buildErrors = [] →
    ∃ period s2s, s.cfg.resolvePeriod = .ok period ∧ s.cfg.startToStart period = .ok s2s ∧
      let fs := f64 (reg64 s.cfg.fsHi s.cfg.fsLo)
      let ftw0 := ftw s.build.P (f64 (reg64 s.cfg.f0Hi s.cfg.f0Lo)) fs
      let ftw1 := ftw s.build.P (f64 (reg64 s.cfg.f1Hi s.cfg.f1Lo)) fs
      let pkt := 8 * ((s.payload.n + 1) / 2) * s.cfg.sps.toNat
      let unit := max pkt s2s
      let total := s.cfg.packets.toNat * unit
      exec .build s = .next { s with
        results :=
          { periodRes := bits64 period
            s2s := BitVec.ofNat 64 s2s
            ftw0 := ftw0
            ftw1 := ftw1
            packetSamples := BitVec.ofNat 64 pkt
            gapSamples := BitVec.ofNat 64 (unit - pkt)
            packetCount := s.cfg.packets
            totalSamples := BitVec.ofNat 64 total
            totalDuration := bits64 (f64Div (toF64 total) fs) }
        status :=
          { busy := decide (total ≠ 0)
            done := decide (total = 0)
            metaValid := true
            gapClamped := decide (s2s < pkt)
            resolveValid := true
            tuneValid := true }
        engine :=
          { k := 0
            acc := 0
            snap :=
              if total = 0 then s.engine.snap
              else
                { bits := s.payload.bits
                  sps := s.cfg.sps.toNat
                  ftw0 := ftw0
                  ftw1 := ftw1
                  pkt := pkt
                  unit := unit
                  packets := s.cfg.packets.toNat
                  total := total } }
        resp := .written }

/-- 42_framer.md R180 on the failure path, while idle. -/
def Obligations.BuildFailureRaisesEveryCause : Prop :=
  ∀ s : State, s.status.busy = false → s.buildErrors ≠ [] →
    exec .build s = .next { raiseAll s.buildErrors s with
      status := { s.status with done := false, gapClamped := false, metaValid := false }
      resp := .written }

/-! ## The engine and the stream -/

/-- 42_framer.md R184 against R182: while a press is in progress, an accepted sample is press(k), and the press goes
on or ends with the last one. The premise is an invariant of the press (stated with the interleaving below). -/
def Obligations.EngineStepEmitsPressSample : Prop :=
  ∀ (s : State) (rest : List Event), Streaming s → s.inputs = .accept :: rest →
    ∃ t, step s = .next t ∧
      t = { s with
        inputs := rest
        stream := s.stream ++ [pressSample s.build s.engine.snap s.engine.k.toNat]
        engine := t.engine
        status := if s.engine.k.toNat + 1 = s.engine.snap.total then { s.status with busy := false, done := true }
          else s.status } ∧
      t.engine.snap = s.engine.snap ∧ t.engine.k.toNat = s.engine.k.toNat + 1 ∧
      (if s.engine.k.toNat % s.engine.snap.unit < s.engine.snap.pkt then
        t.engine.acc.toNat = phaseAt s.build s.engine.snap (s.engine.k.toNat % s.engine.snap.unit)
        else t.engine.acc = s.engine.acc) ∧
      (s.engine.k.toNat + 1 < s.engine.snap.total → Streaming t)

/-- The whole press after a successful BUILD (42_framer.md R182, R184; 00_scope.md R14): m acceptances emit press(0)
to press(m-1), and the last one ends the press. -/
def Obligations.BuildThenAcceptsStreamWholePress : Prop :=
  ∀ s t : State, Inv s → s.status.busy = false → s.resetPin = false → s.buildErrors = [] →
    exec .build s = .next t →
    ∀ m, m ≤ t.results.totalSamples.toNat →
      ∃ u, performAll (List.replicate m .accept) t = .next u ∧
        u.stream = s.stream ++ (List.range m).map (pressSample s.build t.engine.snap) ∧
        u.engine.k.toNat = m ∧
        u.status.busy = decide (m < t.results.totalSamples.toNat) ∧
        u.status.done = decide (m = t.results.totalSamples.toNat) ∧
        u.results = t.results ∧ u.cfg = t.cfg ∧ u.payload = t.payload ∧ u.errFlags = t.errFlags

/-- The stream of a press does not depend on how host accesses interleave with the acceptances (20_memory.md section
4, 70_reset_and_hazards.md section 3): every sequence of events without a reset, with m acceptances that leave a
sample, emits the next m samples of the same press. -/
def Obligations.InterleavingKeepsStream : Prop :=
  ∀ (s : State) (es : List Event), Streaming s → (∀ e ∈ es, e.quiet = true) →
    s.engine.k.toNat + acceptCount es < s.engine.snap.total →
    ∃ t, performAll es s = .next t ∧ Streaming t ∧ t.engine.snap = s.engine.snap ∧
      t.engine.k.toNat = s.engine.k.toNat + acceptCount es ∧
      t.stream = s.stream ++
        (List.range (acceptCount es)).map fun j => pressSample s.build s.engine.snap (s.engine.k.toNat + j)

/-- Engine isolation (70_reset_and_hazards.md section 3): while BUSY = 1 no host operation but SRST touches the
engine, the sample on offer, the payload, the configuration or the results. -/
def Obligations.BusyBlockIsIsolatedFromHost : Prop :=
  ∀ (s : State) (i : Instr), s.status.busy = true → i.wellFormed = true → i ≠ .srst →
    ∃ t, exec i s = .next t ∧ t.engine = s.engine ∧ t.offer = s.offer ∧ t.status.busy = true ∧
      t.payload = s.payload ∧ t.cfg = s.cfg ∧ t.results = s.results ∧ t.stream = s.stream ∧ t.build = s.build ∧
      t.inputs = s.inputs ∧ t.resetPin = s.resetPin

/-- With nothing on offer an acceptance changes nothing: the model's reading (log entry 7) of "the engine step is
enabled when STATUS.BUSY = 1". -/
def Obligations.AcceptWithNothingOnOffer : Prop :=
  ∀ (s : State) (rest : List Event), s.status.busy = false → s.inputs = .accept :: rest →
    step s = .next { s with inputs := rest }

/-! ## Control, reset and errors -/

/-- 44_control.md section 1: NOP changes nothing. -/
def Obligations.NopChangesNothing : Prop :=
  ∀ s : State, exec .nop s = .next { s with resp := .written }

/-- CLRST (44_control.md section 1, 60_exceptions.md section 2), busy or not, and `irq` is 0 after it. -/
def Obligations.ClrstClearsRecord : Prop :=
  ∀ s : State, ∃ t, exec .clrst s = .next t ∧ t.irqLevel = false ∧
    t = { s with
      errFlags := 0
      errCode := 0
      status := { s.status with done := false, gapClamped := false }
      resp := .written }

/-- SRST (44_control.md section 1, 70_reset_and_hazards.md section 1), busy or not: every register and element to the
reset value that 10_state.md gives. The payload cells and the snapshot, which the spec leaves unspecified, are not
named. That SRST does not erase the emitted stream is the model's choice (log entry 9). -/
def Obligations.SrstResetsTheBlock : Prop :=
  ∀ s : State, ∃ t, exec .srst s = .next t ∧
    t.status = { busy := false, done := false, metaValid := false, gapClamped := false, resolveValid := false,
                 tuneValid := false } ∧
    t.errFlags = 0 ∧ t.errCode = 0 ∧ t.irqEn = 0 ∧ t.byteSel = 0 ∧ t.cfg.written = 0 ∧
    t.payload.n = 0 ∧ t.payload.phase = .lead ∧ t.payload.badHex = false ∧ t.payload.overflow = false ∧
    t.engine.k = 0 ∧ t.engine.acc = 0 ∧ t.irqLevel = false ∧ t.offer = none ∧
    (∀ o : Offset, 0x00C ≤ o.toNat → readOffset t o = 0) ∧
    t.stream = s.stream ∧ t.build = s.build ∧ t.inputs = s.inputs ∧ t.resetPin = s.resetPin ∧ t.resp = .written

/-- The reset input (70_reset_and_hazards.md section 1): its assertion leaves what SRST leaves, while it is asserted
no host access and no acceptance has an effect on the block, and its release leaves the block as its assertion does.
That an access gets `resp` none is the model's (log entry 7). -/
def Obligations.ResetInputHoldsTheBlock : Prop :=
  ∀ (s : State) (page : Nat) (a : BusAccess),
    ∃ t, perform .resetAssert s = .next t ∧
      exec .srst s = .next { t with resetPin := s.resetPin, resp := .written } ∧ t.resetPin = true ∧
      perform (.host page a) t = .next { t with resp := .none } ∧
      perform .accept t = .next t ∧
      perform .resetRelease t = .next { t with resetPin := false }

/-- The machine after reset, as 10_state.md gives it: every register reads its reset value and nothing is on offer. That
the reference build is State.reset's is log entry 3, that its stream is empty is log entry 9. -/
def Obligations.ResetStateReads : Prop :=
  (∀ o : Offset, o.toNat % 4 = 0 → exec (readOp o) State.reset = .next { State.reset with resp := .read (
    if o = 0x000 then 0x46534B31 else if o = 0x004 then 0x00010000 else if o = 0x008 then 0x01000C20 else 0) }) ∧
  State.reset.payload.n = 0 ∧ State.reset.payload.phase = .lead ∧ State.reset.payload.badHex = false ∧
  State.reset.payload.overflow = false ∧ State.reset.engine.k = 0 ∧ State.reset.engine.acc = 0 ∧
  State.reset.irqLevel = false ∧ State.reset.offer = none ∧ State.reset.stream = []

/-- 60_exceptions.md R244 with the priority of R250: raising a set of causes. -/
def Obligations.RaiseRecordsCauses : Prop :=
  ∀ (s : State) (es : List Cause), (∀ e ∈ es, e.code.toNat ∈ codePriority ∨ es = [e]) →
    (∀ e : Cause, (raiseAll es s).errFlags.getLsbD (e.code.toNat - 1) =
      (s.errFlags.getLsbD (e.code.toNat - 1) || decide (e ∈ es))) ∧
    (s.errCode ≠ 0 → (raiseAll es s).errCode = s.errCode) ∧
    (s.errCode = 0 → ∀ e ∈ es,
      (∀ e' ∈ es, codePriority.idxOf e.code.toNat ≤ codePriority.idxOf e'.code.toNat) →
      (raiseAll es s).errCode = e.code) ∧
    raiseAll es s = { s with errFlags := (raiseAll es s).errFlags, errCode := (raiseAll es s).errCode }

/-- The busy rejection of commands (30_encoding.md section 1, 70_reset_and_hazards.md section 3). -/
def Obligations.BusyRejectsCommands : Prop :=
  ∀ (s : State) (i : Instr), s.status.busy = true →
    i = .clrpay ∨ (∃ c, i = .pushc c) ∨ i = .tune ∨ i = .build ∨ i = .resolve →
    exec i s = .next { recordError 8 s with resp := .written }

/-- The sticky flags (10_state.md section 2): no step but CLRST, SRST or the reset input clears a bit of ERR_FLAGS or
changes an ERR_CODE that is not 0. -/
def Obligations.ErrorRecordIsSticky : Prop :=
  ∀ (s t : State) (e : Event) (rest : List Event), s.inputs = e :: rest → e.clears = false → step s = .next t →
    (∀ b, s.errFlags.getLsbD b = true → t.errFlags.getLsbD b = true) ∧
    (s.errCode ≠ 0 → t.errCode = s.errCode)

/-- Only reset clears CFG_WRITTEN, and only reset changes the build-independent configuration while a press runs
(10_state.md section 2 and 3). -/
def Obligations.OnlyResetClearsCfgWritten : Prop :=
  ∀ (s t : State) (e : Event) (rest : List Event), s.inputs = e :: rest → e.resets = false → step s = .next t →
    (∀ b, s.cfg.written.getLsbD b = true → t.cfg.written.getLsbD b = true) ∧
    (s.status.busy = true → t.cfg = s.cfg)

/-! ## Invariants of every step -/

/-- The invariant holds after reset, for the reset values that log entries 3, 5 and 6 name where the spec gives
none. -/
def Obligations.ResetSatisfiesInvariant : Prop :=
  Inv State.reset ∧ ValidBitsOk State.reset

/-- Every step keeps the invariant. Its clause `held` says that under the reset input the block stays in the reset
state; the payload cells and the snapshot of that state are the model's (log entries 5 and 6). -/
def Obligations.StepKeepsInvariant : Prop :=
  ∀ s t : State, Inv s → step s = .next t → Inv t

/-- From a state that satisfies the invariant the machine never stops: nothing faults and nothing is refused
(60_exceptions.md section 1, 42_framer.md section 3). -/
def Obligations.InvariantStepGoesOn : Prop :=
  ∀ s : State, Inv s → Goes (step s)

/-- The VALID bits keep their meaning (10_state.md section 2, R34; 70_reset_and_hazards.md R278). -/
def Obligations.StepKeepsValidBits : Prop :=
  ∀ s t : State, ValidBitsOk s → step s = .next t → ValidBitsOk t

/-- What the spec leaves unspecified is never read (93_implementation_defined.md U2, U3): two states that differ only
there go on differing only there, with the same bus answers, registers and stream. -/
def Obligations.UnspecifiedStateIsNeverRead : Prop :=
  ∀ s s' : State, SameButUnread s s' →
    match step s, step s' with
    | .next t, .next t' => SameButUnread t t'
    | .fault f, .fault f' => f = f'
    | _, _ => False

/-! ## Binary64 -/

/-- The primitives of 00_scope.md R10 on natural numerators, denominators and magnitudes: RNE64 is the nearest value,
ties to even, an exact zero +0; f64_div, f64_mul and to_f64 are RNE64 of the exact result, with the sign of R10 on a
zero of either kind and on the infinite operands; rint is the nearest integer, ties to even. -/
def Obligations.Rne64NearestTiesToEven : Prop :=
  (∀ (neg : Bool) (n d : Nat), 0 < d → RoundsTo (neg && decide (n ≠ 0)) ((n : ℚ) / d) (rne64 neg n d)) ∧
  (∀ (sa sb : Bool) (ma mb : Nat), 0 < mb →
    RoundsTo (sa ^^ sb) ((ma : ℚ) / mb) (f64Div (.fin sa ma) (.fin sb mb))) ∧
  (∀ (sa sb : Bool) (ma : Nat), f64Div (.fin sa ma) (.inf sb) = .fin (sa ^^ sb) 0) ∧
  (∀ (sa sb : Bool) (ma mb : Nat),
    RoundsTo (sa ^^ sb) ((ma : ℚ) / 2 ^ 1074 * (mb / 2 ^ 1074)) (f64Mul (.fin sa ma) (.fin sb mb))) ∧
  (∀ (sa sb : Bool) (m : Nat), 0 < m →
    f64Mul (.inf sa) (.fin sb m) = .inf (sa ^^ sb) ∧ f64Mul (.fin sa m) (.inf sb) = .inf (sa ^^ sb)) ∧
  (∀ n : Nat, RoundsTo false n (toF64 n)) ∧
  (∀ (neg : Bool) (mag : Nat), NearestEven (rintScaled 0 neg mag) (realOf neg mag)) ∧
  (∀ x : F64, (x.isPos = true ↔ x = .inf false ∨ ∃ m, x = .fin false m ∧ 0 < m) ∧
    (x.isFinite = true ↔ ∃ neg m, x = .fin neg m))

/-- 30_encoding.md R110: the value of an encoding. -/
def Obligations.Binary64EncodingValues : Prop :=
  ∀ w : DWord,
    let sign := w.getLsbD 63
    let e : Nat := w.toNat / 2 ^ 52 % 2 ^ 11
    let f : Nat := w.toNat % 2 ^ 52
    if e = 2047 then f64 w = (if f = 0 then .inf sign else .nan)
    else ∃ m, f64 w = .fin sign m ∧
      realOf sign m = (if sign then -1 else 1) *
        (if e = 0 then (f : ℚ) / 2 ^ 52 / 2 ^ 1022 else (2 : ℚ) ^ ((e : ℤ) - 1023) * (1 + (f : ℚ) / 2 ^ 52))

/-- bits64 is the inverse of f64, but for the payload of a NaN (00_scope.md section 4, 30_encoding.md section 3). -/
def Obligations.Bits64InvertsF64 : Prop :=
  ∀ w : DWord, f64 w ≠ .nan → bits64 (f64 w) = w
end

