-- ==== Sys2Proof/Laws/State.lean ====
section
/-! SUPPORT. One lemma per field of State per update, so that no later proof unfolds a record update. -/

namespace Sys2Proof.Machine

/-! ## respond -/

@[simp] theorem respond_build (r : Response) (s : State) : (respond r s).build = s.build := rfl
@[simp] theorem respond_status (r : Response) (s : State) : (respond r s).status = s.status := rfl
@[simp] theorem respond_errFlags (r : Response) (s : State) : (respond r s).errFlags = s.errFlags := rfl
@[simp] theorem respond_errCode (r : Response) (s : State) : (respond r s).errCode = s.errCode := rfl
@[simp] theorem respond_irqEn (r : Response) (s : State) : (respond r s).irqEn = s.irqEn := rfl
@[simp] theorem respond_byteSel (r : Response) (s : State) : (respond r s).byteSel = s.byteSel := rfl
@[simp] theorem respond_cfg (r : Response) (s : State) : (respond r s).cfg = s.cfg := rfl
@[simp] theorem respond_payload (r : Response) (s : State) : (respond r s).payload = s.payload := rfl
@[simp] theorem respond_results (r : Response) (s : State) : (respond r s).results = s.results := rfl
@[simp] theorem respond_engine (r : Response) (s : State) : (respond r s).engine = s.engine := rfl
@[simp] theorem respond_stream (r : Response) (s : State) : (respond r s).stream = s.stream := rfl
@[simp] theorem respond_resp (r : Response) (s : State) : (respond r s).resp = r := rfl
@[simp] theorem respond_resetPin (r : Response) (s : State) : (respond r s).resetPin = s.resetPin := rfl
@[simp] theorem respond_inputs (r : Response) (s : State) : (respond r s).inputs = s.inputs := rfl

/-! ## raiseAll -/

@[simp] theorem raiseAll_build (es : List Cause) (s : State) : (raiseAll es s).build = s.build := rfl
@[simp] theorem raiseAll_status (es : List Cause) (s : State) : (raiseAll es s).status = s.status := rfl
@[simp] theorem raiseAll_errFlags (es : List Cause) (s : State) :
    (raiseAll es s).errFlags = flagsAfter s.errFlags es := rfl
@[simp] theorem raiseAll_errCode (es : List Cause) (s : State) :
    (raiseAll es s).errCode = codeAfter s.errCode es := rfl
@[simp] theorem raiseAll_irqEn (es : List Cause) (s : State) : (raiseAll es s).irqEn = s.irqEn := rfl
@[simp] theorem raiseAll_byteSel (es : List Cause) (s : State) : (raiseAll es s).byteSel = s.byteSel := rfl
@[simp] theorem raiseAll_cfg (es : List Cause) (s : State) : (raiseAll es s).cfg = s.cfg := rfl
@[simp] theorem raiseAll_payload (es : List Cause) (s : State) : (raiseAll es s).payload = s.payload := rfl
@[simp] theorem raiseAll_results (es : List Cause) (s : State) : (raiseAll es s).results = s.results := rfl
@[simp] theorem raiseAll_engine (es : List Cause) (s : State) : (raiseAll es s).engine = s.engine := rfl
@[simp] theorem raiseAll_stream (es : List Cause) (s : State) : (raiseAll es s).stream = s.stream := rfl
@[simp] theorem raiseAll_resp (es : List Cause) (s : State) : (raiseAll es s).resp = s.resp := rfl
@[simp] theorem raiseAll_resetPin (es : List Cause) (s : State) : (raiseAll es s).resetPin = s.resetPin := rfl
@[simp] theorem raiseAll_inputs (es : List Cause) (s : State) : (raiseAll es s).inputs = s.inputs := rfl

/-! ## raise -/

@[simp] theorem raise_build (e : Cause) (s : State) : (raise e s).build = s.build := rfl
@[simp] theorem raise_status (e : Cause) (s : State) : (raise e s).status = s.status := rfl
@[simp] theorem raise_errFlags (e : Cause) (s : State) : (raise e s).errFlags = flagsAfter s.errFlags [e] := rfl
@[simp] theorem raise_errCode (e : Cause) (s : State) : (raise e s).errCode = codeAfter s.errCode [e] := rfl
@[simp] theorem raise_irqEn (e : Cause) (s : State) : (raise e s).irqEn = s.irqEn := rfl
@[simp] theorem raise_byteSel (e : Cause) (s : State) : (raise e s).byteSel = s.byteSel := rfl
@[simp] theorem raise_cfg (e : Cause) (s : State) : (raise e s).cfg = s.cfg := rfl
@[simp] theorem raise_payload (e : Cause) (s : State) : (raise e s).payload = s.payload := rfl
@[simp] theorem raise_results (e : Cause) (s : State) : (raise e s).results = s.results := rfl
@[simp] theorem raise_engine (e : Cause) (s : State) : (raise e s).engine = s.engine := rfl
@[simp] theorem raise_stream (e : Cause) (s : State) : (raise e s).stream = s.stream := rfl
@[simp] theorem raise_resp (e : Cause) (s : State) : (raise e s).resp = s.resp := rfl
@[simp] theorem raise_resetPin (e : Cause) (s : State) : (raise e s).resetPin = s.resetPin := rfl
@[simp] theorem raise_inputs (e : Cause) (s : State) : (raise e s).inputs = s.inputs := rfl

/-! ## clearRecord -/

@[simp] theorem clearRecord_build (s : State) : (clearRecord s).build = s.build := rfl
@[simp] theorem clearRecord_status (s : State) :
    (clearRecord s).status = { s.status with done := false, gapClamped := false } := rfl
@[simp] theorem clearRecord_errFlags (s : State) : (clearRecord s).errFlags = 0 := rfl
@[simp] theorem clearRecord_errCode (s : State) : (clearRecord s).errCode = 0 := rfl
@[simp] theorem clearRecord_irqEn (s : State) : (clearRecord s).irqEn = s.irqEn := rfl
@[simp] theorem clearRecord_byteSel (s : State) : (clearRecord s).byteSel = s.byteSel := rfl
@[simp] theorem clearRecord_cfg (s : State) : (clearRecord s).cfg = s.cfg := rfl
@[simp] theorem clearRecord_payload (s : State) : (clearRecord s).payload = s.payload := rfl
@[simp] theorem clearRecord_results (s : State) : (clearRecord s).results = s.results := rfl
@[simp] theorem clearRecord_engine (s : State) : (clearRecord s).engine = s.engine := rfl
@[simp] theorem clearRecord_stream (s : State) : (clearRecord s).stream = s.stream := rfl
@[simp] theorem clearRecord_resp (s : State) : (clearRecord s).resp = s.resp := rfl
@[simp] theorem clearRecord_resetPin (s : State) : (clearRecord s).resetPin = s.resetPin := rfl
@[simp] theorem clearRecord_inputs (s : State) : (clearRecord s).inputs = s.inputs := rfl

/-! ## applyReset -/

@[simp] theorem applyReset_build (s : State) : (applyReset s).build = s.build := rfl
@[simp] theorem applyReset_status (s : State) : (applyReset s).status = .reset := rfl
@[simp] theorem applyReset_errFlags (s : State) : (applyReset s).errFlags = 0 := rfl
@[simp] theorem applyReset_errCode (s : State) : (applyReset s).errCode = 0 := rfl
@[simp] theorem applyReset_irqEn (s : State) : (applyReset s).irqEn = 0 := rfl
@[simp] theorem applyReset_byteSel (s : State) : (applyReset s).byteSel = 0 := rfl
@[simp] theorem applyReset_cfg (s : State) : (applyReset s).cfg = .reset := rfl
@[simp] theorem applyReset_payload (s : State) : (applyReset s).payload = .reset s.build.N := rfl
@[simp] theorem applyReset_results (s : State) : (applyReset s).results = .reset := rfl
@[simp] theorem applyReset_engine (s : State) : (applyReset s).engine = .reset := rfl
@[simp] theorem applyReset_stream (s : State) : (applyReset s).stream = s.stream := rfl
@[simp] theorem applyReset_resp (s : State) : (applyReset s).resp = s.resp := rfl
@[simp] theorem applyReset_resetPin (s : State) : (applyReset s).resetPin = s.resetPin := rfl
@[simp] theorem applyReset_inputs (s : State) : (applyReset s).inputs = s.inputs := rfl

/-! ## clearMeta -/

@[simp] theorem clearMeta_build (s : State) : (clearMeta s).build = s.build := rfl
@[simp] theorem clearMeta_status (s : State) : (clearMeta s).status = { s.status with metaValid := false } := rfl
@[simp] theorem clearMeta_errFlags (s : State) : (clearMeta s).errFlags = s.errFlags := rfl
@[simp] theorem clearMeta_errCode (s : State) : (clearMeta s).errCode = s.errCode := rfl
@[simp] theorem clearMeta_irqEn (s : State) : (clearMeta s).irqEn = s.irqEn := rfl
@[simp] theorem clearMeta_byteSel (s : State) : (clearMeta s).byteSel = s.byteSel := rfl
@[simp] theorem clearMeta_cfg (s : State) : (clearMeta s).cfg = s.cfg := rfl
@[simp] theorem clearMeta_payload (s : State) : (clearMeta s).payload = s.payload := rfl
@[simp] theorem clearMeta_results (s : State) : (clearMeta s).results = s.results := rfl
@[simp] theorem clearMeta_engine (s : State) : (clearMeta s).engine = s.engine := rfl
@[simp] theorem clearMeta_stream (s : State) : (clearMeta s).stream = s.stream := rfl
@[simp] theorem clearMeta_resp (s : State) : (clearMeta s).resp = s.resp := rfl
@[simp] theorem clearMeta_resetPin (s : State) : (clearMeta s).resetPin = s.resetPin := rfl
@[simp] theorem clearMeta_inputs (s : State) : (clearMeta s).inputs = s.inputs := rfl

/-! ## clearPayload -/

@[simp] theorem clearPayload_build (s : State) : (clearPayload s).build = s.build := rfl
@[simp] theorem clearPayload_status (s : State) :
    (clearPayload s).status = { s.status with metaValid := false } := rfl
@[simp] theorem clearPayload_errFlags (s : State) : (clearPayload s).errFlags = s.errFlags := rfl
@[simp] theorem clearPayload_errCode (s : State) : (clearPayload s).errCode = s.errCode := rfl
@[simp] theorem clearPayload_irqEn (s : State) : (clearPayload s).irqEn = s.irqEn := rfl
@[simp] theorem clearPayload_byteSel (s : State) : (clearPayload s).byteSel = s.byteSel := rfl
@[simp] theorem clearPayload_cfg (s : State) : (clearPayload s).cfg = s.cfg := rfl
@[simp] theorem clearPayload_payload (s : State) : (clearPayload s).payload = s.payload.clear := rfl
@[simp] theorem clearPayload_results (s : State) : (clearPayload s).results = s.results := rfl
@[simp] theorem clearPayload_engine (s : State) : (clearPayload s).engine = s.engine := rfl
@[simp] theorem clearPayload_stream (s : State) : (clearPayload s).stream = s.stream := rfl
@[simp] theorem clearPayload_resp (s : State) : (clearPayload s).resp = s.resp := rfl
@[simp] theorem clearPayload_resetPin (s : State) : (clearPayload s).resetPin = s.resetPin := rfl
@[simp] theorem clearPayload_inputs (s : State) : (clearPayload s).inputs = s.inputs := rfl

/-! ## pushChar -/

@[simp] theorem pushChar_build (c : Byte) (s : State) : (pushChar c s).build = s.build := rfl
@[simp] theorem pushChar_status (c : Byte) (s : State) :
    (pushChar c s).status = { s.status with metaValid := false } := rfl
@[simp] theorem pushChar_errFlags (c : Byte) (s : State) :
    (pushChar c s).errFlags = flagsAfter s.errFlags (s.payload.feed s.build.N c).2 := rfl
@[simp] theorem pushChar_errCode (c : Byte) (s : State) :
    (pushChar c s).errCode = codeAfter s.errCode (s.payload.feed s.build.N c).2 := rfl
@[simp] theorem pushChar_irqEn (c : Byte) (s : State) : (pushChar c s).irqEn = s.irqEn := rfl
@[simp] theorem pushChar_byteSel (c : Byte) (s : State) : (pushChar c s).byteSel = s.byteSel := rfl
@[simp] theorem pushChar_cfg (c : Byte) (s : State) : (pushChar c s).cfg = s.cfg := rfl
@[simp] theorem pushChar_payload (c : Byte) (s : State) :
    (pushChar c s).payload = (s.payload.feed s.build.N c).1 := rfl
@[simp] theorem pushChar_results (c : Byte) (s : State) : (pushChar c s).results = s.results := rfl
@[simp] theorem pushChar_engine (c : Byte) (s : State) : (pushChar c s).engine = s.engine := rfl
@[simp] theorem pushChar_stream (c : Byte) (s : State) : (pushChar c s).stream = s.stream := rfl
@[simp] theorem pushChar_resp (c : Byte) (s : State) : (pushChar c s).resp = s.resp := rfl
@[simp] theorem pushChar_resetPin (c : Byte) (s : State) : (pushChar c s).resetPin = s.resetPin := rfl
@[simp] theorem pushChar_inputs (c : Byte) (s : State) : (pushChar c s).inputs = s.inputs := rfl

/-! ## writeTuning -/

@[simp] theorem writeTuning_build (s : State) : (writeTuning s).build = s.build := rfl
@[simp] theorem writeTuning_status (s : State) : (writeTuning s).status = { s.status with tuneValid := true } := rfl
@[simp] theorem writeTuning_errFlags (s : State) : (writeTuning s).errFlags = s.errFlags := rfl
@[simp] theorem writeTuning_errCode (s : State) : (writeTuning s).errCode = s.errCode := rfl
@[simp] theorem writeTuning_irqEn (s : State) : (writeTuning s).irqEn = s.irqEn := rfl
@[simp] theorem writeTuning_byteSel (s : State) : (writeTuning s).byteSel = s.byteSel := rfl
@[simp] theorem writeTuning_cfg (s : State) : (writeTuning s).cfg = s.cfg := rfl
@[simp] theorem writeTuning_payload (s : State) : (writeTuning s).payload = s.payload := rfl
@[simp] theorem writeTuning_results (s : State) :
    (writeTuning s).results =
      { s.results with
        ftw0 := ftw s.build.P s.cfg.f0 s.cfg.fs, ftw1 := ftw s.build.P s.cfg.f1 s.cfg.fs } := rfl
@[simp] theorem writeTuning_engine (s : State) : (writeTuning s).engine = s.engine := rfl
@[simp] theorem writeTuning_stream (s : State) : (writeTuning s).stream = s.stream := rfl
@[simp] theorem writeTuning_resp (s : State) : (writeTuning s).resp = s.resp := rfl
@[simp] theorem writeTuning_resetPin (s : State) : (writeTuning s).resetPin = s.resetPin := rfl
@[simp] theorem writeTuning_inputs (s : State) : (writeTuning s).inputs = s.inputs := rfl

/-! ## writeCadence -/

@[simp] theorem writeCadence_build (p : F64) (n : Nat) (s : State) : (writeCadence p n s).build = s.build := rfl
@[simp] theorem writeCadence_status (p : F64) (n : Nat) (s : State) :
    (writeCadence p n s).status = { s.status with resolveValid := true } := rfl
@[simp] theorem writeCadence_errFlags (p : F64) (n : Nat) (s : State) :
    (writeCadence p n s).errFlags = s.errFlags := rfl
@[simp] theorem writeCadence_errCode (p : F64) (n : Nat) (s : State) : (writeCadence p n s).errCode = s.errCode := rfl
@[simp] theorem writeCadence_irqEn (p : F64) (n : Nat) (s : State) : (writeCadence p n s).irqEn = s.irqEn := rfl
@[simp] theorem writeCadence_byteSel (p : F64) (n : Nat) (s : State) : (writeCadence p n s).byteSel = s.byteSel := rfl
@[simp] theorem writeCadence_cfg (p : F64) (n : Nat) (s : State) : (writeCadence p n s).cfg = s.cfg := rfl
@[simp] theorem writeCadence_payload (p : F64) (n : Nat) (s : State) : (writeCadence p n s).payload = s.payload := rfl
@[simp] theorem writeCadence_results (p : F64) (n : Nat) (s : State) :
    (writeCadence p n s).results = { s.results with periodRes := bits64 p, s2s := BitVec.ofNat 64 n } := rfl
@[simp] theorem writeCadence_engine (p : F64) (n : Nat) (s : State) : (writeCadence p n s).engine = s.engine := rfl
@[simp] theorem writeCadence_stream (p : F64) (n : Nat) (s : State) : (writeCadence p n s).stream = s.stream := rfl
@[simp] theorem writeCadence_resp (p : F64) (n : Nat) (s : State) : (writeCadence p n s).resp = s.resp := rfl
@[simp] theorem writeCadence_resetPin (p : F64) (n : Nat) (s : State) :
    (writeCadence p n s).resetPin = s.resetPin := rfl
@[simp] theorem writeCadence_inputs (p : F64) (n : Nat) (s : State) : (writeCadence p n s).inputs = s.inputs := rfl

/-! ## acceptBuild -/

@[simp] theorem acceptBuild_build (s : State) : (acceptBuild s).build = s.build := rfl
@[simp] theorem acceptBuild_status (s : State) :
    (acceptBuild s).status = { s.status with done := false, gapClamped := false, metaValid := false } := rfl
@[simp] theorem acceptBuild_errFlags (s : State) : (acceptBuild s).errFlags = s.errFlags := rfl
@[simp] theorem acceptBuild_errCode (s : State) : (acceptBuild s).errCode = s.errCode := rfl
@[simp] theorem acceptBuild_irqEn (s : State) : (acceptBuild s).irqEn = s.irqEn := rfl
@[simp] theorem acceptBuild_byteSel (s : State) : (acceptBuild s).byteSel = s.byteSel := rfl
@[simp] theorem acceptBuild_cfg (s : State) : (acceptBuild s).cfg = s.cfg := rfl
@[simp] theorem acceptBuild_payload (s : State) : (acceptBuild s).payload = s.payload := rfl
@[simp] theorem acceptBuild_results (s : State) : (acceptBuild s).results = s.results := rfl
@[simp] theorem acceptBuild_engine (s : State) : (acceptBuild s).engine = s.engine := rfl
@[simp] theorem acceptBuild_stream (s : State) : (acceptBuild s).stream = s.stream := rfl
@[simp] theorem acceptBuild_resp (s : State) : (acceptBuild s).resp = s.resp := rfl
@[simp] theorem acceptBuild_resetPin (s : State) : (acceptBuild s).resetPin = s.resetPin := rfl
@[simp] theorem acceptBuild_inputs (s : State) : (acceptBuild s).inputs = s.inputs := rfl

/-! ## writeMetadata -/

@[simp] theorem writeMetadata_build (n : Nat) (s : State) : (writeMetadata n s).build = s.build := rfl
@[simp] theorem writeMetadata_status (n : Nat) (s : State) :
    (writeMetadata n s).status = { s.status with gapClamped := decide (n < s.pkt), metaValid := true } := rfl
@[simp] theorem writeMetadata_errFlags (n : Nat) (s : State) : (writeMetadata n s).errFlags = s.errFlags := rfl
@[simp] theorem writeMetadata_errCode (n : Nat) (s : State) : (writeMetadata n s).errCode = s.errCode := rfl
@[simp] theorem writeMetadata_irqEn (n : Nat) (s : State) : (writeMetadata n s).irqEn = s.irqEn := rfl
@[simp] theorem writeMetadata_byteSel (n : Nat) (s : State) : (writeMetadata n s).byteSel = s.byteSel := rfl
@[simp] theorem writeMetadata_cfg (n : Nat) (s : State) : (writeMetadata n s).cfg = s.cfg := rfl
@[simp] theorem writeMetadata_payload (n : Nat) (s : State) : (writeMetadata n s).payload = s.payload := rfl
@[simp] theorem writeMetadata_results (n : Nat) (s : State) :
    (writeMetadata n s).results =
      { s.results with
        packetSamples := BitVec.ofNat 64 s.pkt, gapSamples := BitVec.ofNat 64 (gapLen s.pkt n), packetCount := s.cfg.packets, totalSamples := BitVec.ofNat 64 (s.total n), totalDuration := bits64 (totalDuration (s.total n) s.cfg.fs) } := rfl
@[simp] theorem writeMetadata_engine (n : Nat) (s : State) : (writeMetadata n s).engine = s.engine := rfl
@[simp] theorem writeMetadata_stream (n : Nat) (s : State) : (writeMetadata n s).stream = s.stream := rfl
@[simp] theorem writeMetadata_resp (n : Nat) (s : State) : (writeMetadata n s).resp = s.resp := rfl
@[simp] theorem writeMetadata_resetPin (n : Nat) (s : State) : (writeMetadata n s).resetPin = s.resetPin := rfl
@[simp] theorem writeMetadata_inputs (n : Nat) (s : State) : (writeMetadata n s).inputs = s.inputs := rfl

/-! ## emit -/

@[simp] theorem emit_build (e : Emission) (a : Word) (s : State) : (emit e a s).build = s.build := rfl
@[simp] theorem emit_status (e : Emission) (a : Word) (s : State) :
    (emit e a s).status = if e.last then { s.status with busy := false, done := true } else s.status := rfl
@[simp] theorem emit_errFlags (e : Emission) (a : Word) (s : State) : (emit e a s).errFlags = s.errFlags := rfl
@[simp] theorem emit_errCode (e : Emission) (a : Word) (s : State) : (emit e a s).errCode = s.errCode := rfl
@[simp] theorem emit_irqEn (e : Emission) (a : Word) (s : State) : (emit e a s).irqEn = s.irqEn := rfl
@[simp] theorem emit_byteSel (e : Emission) (a : Word) (s : State) : (emit e a s).byteSel = s.byteSel := rfl
@[simp] theorem emit_cfg (e : Emission) (a : Word) (s : State) : (emit e a s).cfg = s.cfg := rfl
@[simp] theorem emit_payload (e : Emission) (a : Word) (s : State) : (emit e a s).payload = s.payload := rfl
@[simp] theorem emit_results (e : Emission) (a : Word) (s : State) : (emit e a s).results = s.results := rfl
@[simp] theorem emit_engine (e : Emission) (a : Word) (s : State) :
    (emit e a s).engine = { s.engine with k := s.engine.k + 1, acc := a } := rfl
@[simp] theorem emit_stream (e : Emission) (a : Word) (s : State) : (emit e a s).stream = s.stream ++ [e] := rfl
@[simp] theorem emit_resp (e : Emission) (a : Word) (s : State) : (emit e a s).resp = s.resp := rfl
@[simp] theorem emit_resetPin (e : Emission) (a : Word) (s : State) : (emit e a s).resetPin = s.resetPin := rfl
@[simp] theorem emit_inputs (e : Emission) (a : Word) (s : State) : (emit e a s).inputs = s.inputs := rfl

/-! ## assertReset -/

@[simp] theorem assertReset_build (s : State) : (assertReset s).build = s.build := rfl
@[simp] theorem assertReset_status (s : State) : (assertReset s).status = .reset := rfl
@[simp] theorem assertReset_errFlags (s : State) : (assertReset s).errFlags = 0 := rfl
@[simp] theorem assertReset_errCode (s : State) : (assertReset s).errCode = 0 := rfl
@[simp] theorem assertReset_irqEn (s : State) : (assertReset s).irqEn = 0 := rfl
@[simp] theorem assertReset_byteSel (s : State) : (assertReset s).byteSel = 0 := rfl
@[simp] theorem assertReset_cfg (s : State) : (assertReset s).cfg = .reset := rfl
@[simp] theorem assertReset_payload (s : State) : (assertReset s).payload = .reset s.build.N := rfl
@[simp] theorem assertReset_results (s : State) : (assertReset s).results = .reset := rfl
@[simp] theorem assertReset_engine (s : State) : (assertReset s).engine = .reset := rfl
@[simp] theorem assertReset_stream (s : State) : (assertReset s).stream = s.stream := rfl
@[simp] theorem assertReset_resp (s : State) : (assertReset s).resp = s.resp := rfl
@[simp] theorem assertReset_resetPin (s : State) : (assertReset s).resetPin = true := rfl
@[simp] theorem assertReset_inputs (s : State) : (assertReset s).inputs = s.inputs := rfl

/-! ## placeAccess -/

@[simp] theorem placeAccess_build (a : BusAccess) (s : State) : (placeAccess a s).build = s.build := rfl
@[simp] theorem placeAccess_status (a : BusAccess) (s : State) : (placeAccess a s).status = s.status := rfl
@[simp] theorem placeAccess_errFlags (a : BusAccess) (s : State) : (placeAccess a s).errFlags = s.errFlags := rfl
@[simp] theorem placeAccess_errCode (a : BusAccess) (s : State) : (placeAccess a s).errCode = s.errCode := rfl
@[simp] theorem placeAccess_irqEn (a : BusAccess) (s : State) : (placeAccess a s).irqEn = s.irqEn := rfl
@[simp] theorem placeAccess_byteSel (a : BusAccess) (s : State) : (placeAccess a s).byteSel = s.byteSel := rfl
@[simp] theorem placeAccess_cfg (a : BusAccess) (s : State) : (placeAccess a s).cfg = s.cfg := rfl
@[simp] theorem placeAccess_payload (a : BusAccess) (s : State) : (placeAccess a s).payload = s.payload := rfl
@[simp] theorem placeAccess_results (a : BusAccess) (s : State) : (placeAccess a s).results = s.results := rfl
@[simp] theorem placeAccess_engine (a : BusAccess) (s : State) : (placeAccess a s).engine = s.engine := rfl
@[simp] theorem placeAccess_stream (a : BusAccess) (s : State) : (placeAccess a s).stream = s.stream := rfl
@[simp] theorem placeAccess_resp (a : BusAccess) (s : State) : (placeAccess a s).resp = s.resp := rfl
@[simp] theorem placeAccess_resetPin (a : BusAccess) (s : State) : (placeAccess a s).resetPin = false := rfl
@[simp] theorem placeAccess_inputs (a : BusAccess) (s : State) :
    (placeAccess a s).inputs = .host s.build.page a :: s.inputs := rfl

/-! ## The updates whose result depends on a test -/

@[simp] theorem store_written (c : CfgRegs) (x : CfgReg) (v : Word) : (c.store x v).written = c.written := by
  cases x <;> rfl

@[simp] theorem applyReset_applyReset (s : State) : applyReset (applyReset s) = applyReset s := rfl

@[simp] theorem respond_respond (r r' : Response) (s : State) : respond r (respond r' s) = respond r s := rfl

@[simp] theorem raiseAll_nil (s : State) : raiseAll [] s = s := by
  have hc : codeAfter s.errCode [] = s.errCode := by
    have ht : topCause [] = none := rfl
    simp [codeAfter, ht]
  simp [raiseAll, flagsAfter, hc]

end Sys2Proof.Machine
end

