-- ==== Sys2Proof/Machine/Assembler.lean ====
section
/-! DEFINITION. The assembler syntax of host programs (30_encoding.md R116), the pseudo-instructions with their
expansions (R117), and the host that runs a program: its accesses one after the other, a polling loop until its bit has
the level it waits for (log entry 17). It stands outside the block: it says which bus accesses a host program makes. -/

namespace Sys2Proof.Machine

/-! ## Operations and pseudo-instructions -/

/-- One operation of a host program (30_encoding.md R116). -/
inductive HostOp where
  | wr (reg : Reg) (imm : Word)
  | rd (reg : Reg)
  | command (c : Command)
  deriving DecidableEq, Repr

/-- The pairs X_LO, X_HI of the register map (10_state.md R30), which WR64 names (30_encoding.md R117). Writes to the
read-only ones have no effect (44_control.md R221). -/
inductive RegPair where
  | fs | f0 | f1 | pps | period | defp
  | periodRes | s2s | packetSamples | gapSamples | totalSamples | totalDuration | emitted
  deriving DecidableEq, Repr

/-- One thing a host does: an operation, or a polling loop that repeats `RD STATUS` until the bit has the level
(30_encoding.md R117). -/
inductive HostItem where
  | op (o : HostOp)
  | poll (bit : Nat) (level : Bool)
  deriving DecidableEq, Repr

/-- A line of a host program (30_encoding.md R116, R117). -/
inductive HostLine where
  | op (o : HostOp)
  | wr64 (x : RegPair) (v : DWord)
  | pushs (text : List Byte)
  | sethex (text : List Byte)
  | waitidle
  | waitdone
  | expect (reg : Reg) (imm : Word)
  deriving DecidableEq, Repr

/-- offset(reg) (30_encoding.md R116), from the register map. -/
def regOffset (r : Reg) : Offset :=
  match regMap.find? fun e => e.2 == r with
  | some e => BitVec.ofNat 12 e.1
  | none => 0

/-- X_LO of a pair (10_state.md R30). -/
def pairLo : RegPair → Reg
  | .fs => .cfg .fsLo
  | .f0 => .cfg .f0Lo
  | .f1 => .cfg .f1Lo
  | .pps => .cfg .ppsLo
  | .period => .cfg .periodLo
  | .defp => .cfg .defpLo
  | .periodRes => .periodResLo
  | .s2s => .s2sLo
  | .packetSamples => .packetSamplesLo
  | .gapSamples => .gapSamplesLo
  | .totalSamples => .totalSamplesLo
  | .totalDuration => .totalDurationLo
  | .emitted => .emittedLo

/-- X_HI of a pair (10_state.md R30). -/
def pairHi : RegPair → Reg
  | .fs => .cfg .fsHi
  | .f0 => .cfg .f0Hi
  | .f1 => .cfg .f1Hi
  | .pps => .cfg .ppsHi
  | .period => .cfg .periodHi
  | .defp => .cfg .defpHi
  | .periodRes => .periodResHi
  | .s2s => .s2sHi
  | .packetSamples => .packetSamplesHi
  | .gapSamples => .gapSamplesHi
  | .totalSamples => .totalSamplesHi
  | .totalDuration => .totalDurationHi
  | .emitted => .emittedHi

/-- The bus access of an operation (30_encoding.md R116). -/
def hostOpAccess : HostOp → BusAccess
  | .wr r v => { header := accessHeader true (regOffset r), bits := 32, strobes := 0xF, data := v }
  | .rd r => encode (.rd (regOffset r) 32)
  | .command c => cmdAccess (encodeCmd c)

/-- The expansion of a line (30_encoding.md R117). -/
def expand : HostLine → List HostItem
  | .op o => [.op o]
  | .wr64 x v => [.op (.wr (pairLo x) (loHalf v)), .op (.wr (pairHi x) (hiHalf v))]
  | .pushs text => text.map fun c => .op (.command (.pushc c))
  | .sethex text => .op (.command .clrpay) :: text.map fun c => .op (.command (.pushc c))
  | .waitidle => [.poll 0 false]
  | .waitdone => [.poll 1 true]
  | .expect r _ => [.op (.rd r)]

/-- The expansion of a host program. -/
def expandAll (ls : List HostLine) : List HostItem := ls.flatMap expand

/-! ## The host that runs a program -/

/-- The operation of an item: for a polling loop, the read that it repeats. -/
def itemOp : HostItem → HostOp
  | .op o => o
  | .poll _ _ => .rd .status

/-- Whether the block's answer ends an item: an operation is performed once, a polling loop ends when the word read has
the bit at the level (30_encoding.md R117). That it goes on when the read gave no data is a DESIGN CHOICE (log entry
19). -/
def itemEnds (it : HostItem) (r : Response) : Bool :=
  match it with
  | .op _ => true
  | .poll bit level =>
    match r with
    | .read w => w.getLsbD bit == level
    | .none => false
    | .written => false
    | .readError _ => false
    | .writeError => false

/-- The host's access for an item at the window of page `page`. -/
def itemEvent (page : Nat) (it : HostItem) : Event := .host page (hostOpAccess (itemOp it))

/-- A block and what is left of the program of its host. -/
structure HostRun where
  program : List HostItem
  block : State
  deriving DecidableEq, Repr

/-- Who takes the next step: the host with its program, or another agent with an event of its own (00_scope.md R13). -/
inductive Turn where
  | host
  | other (e : Event)
  deriving DecidableEq, Repr

/-- The answer of the block, with what is left of the program then. -/
def HostRun.afterResult (left : State → List HostItem) (r : Result) : Host.Outcome HostRun Fault Refusal :=
  match r with
  | .next t => .next { program := left t, block := t }
  | .fault f => .fault f
  | .refused x => .refused x

/-- One step of a run. The host performs its first item, and a polling loop stays first until a read of STATUS ends
it (30_encoding.md R117); with no program left it does nothing. -/
def HostRun.turn (page : Nat) (who : Turn) (h : HostRun) : Host.Outcome HostRun Fault Refusal :=
  match who with
  | .other e => HostRun.afterResult (fun _ => h.program) (perform e h.block)
  | .host =>
    match h.program with
    | [] => .next h
    | it :: rest =>
      HostRun.afterResult (fun t => if itemEnds it t.resp then rest else it :: rest)
        (perform (itemEvent page it) h.block)

/-- The steps of a run, in the order of a schedule. -/
def HostRun.turns (page : Nat) : List Turn → HostRun → Host.Outcome HostRun Fault Refusal
  | [], h => .next h
  | who :: rest, h =>
    match h.turn page who with
    | .next g => g.turns page rest
    | .fault f => .fault f
    | .refused x => .refused x

/-- The events of a host program in which every polling loop ends at its first read. -/
def hostEvents (page : Nat) (ls : List HostLine) : List Event := (expandAll ls).map (itemEvent page)

/-! ## Literals and lines as text -/

/-- The value of a digit in a base of at most 16; a hexadecimal digit of either case, DESIGN CHOICE (log entry 19). -/
def digitValue (base : Nat) (c : Char) : Option Nat :=
  let n := c.toNat
  let v :=
    if 48 ≤ n ∧ n ≤ 57 then n - 48
    else if 97 ≤ n ∧ n ≤ 102 then n - 87
    else if 65 ≤ n ∧ n ≤ 70 then n - 55
    else base
  if v < base then some v else none

/-- A numeral in a base, added to what stands before it. -/
def numeralFrom (base : Nat) : Nat → List Char → Option Nat
  | acc, [] => some acc
  | acc, c :: cs =>
    match digitValue base c with
    | some v => numeralFrom base (acc * base + v) cs
    | none => none

/-- A numeral with at least one digit. -/
def numeral (base : Nat) (cs : List Char) : Option Nat := if cs = [] then none else numeralFrom base 0 cs

/-- An integer literal (30_encoding.md R116): decimal, 0x hexadecimal, or a character in single quotes. R116 gives a
character its ASCII code; that one that is not ASCII stands for its Unicode code point is a DESIGN CHOICE, unsafe (log
entry 19). -/
def intLiteral (cs : List Char) : Option Nat :=
  match cs with
  | ['\'', c, '\''] => some c.toNat
  | '0' :: 'x' :: ds => numeral 16 ds
  | ds => numeral 10 ds

/-- The binary64 value of the decimal ±digits · 10^(e - down): RNE64 of the decimal value (30_encoding.md R116), so a
zero of either sign is +0, and -0.0 is written as its encoding (log entry 17). -/
def decimalF64 (neg : Bool) (digits e down : Nat) : F64 := rne64 neg (digits * 10 ^ e) (10 ^ down)

/-- A sign, and what follows it. -/
def signOf : List Char → Bool × List Char
  | '-' :: cs => (true, cs)
  | '+' :: cs => (false, cs)
  | cs => (false, cs)

/-- A binary64 literal (30_encoding.md R116): `f64:0x…`, or a decimal with a `.` or an exponent. That an encoding of more
than 64 bits is truncated mod 2^64, and which decimals are taken, is a DESIGN CHOICE, unsafe (log entry 19). -/
def f64Literal (cs : List Char) : Option DWord :=
  match cs with
  | 'f' :: '6' :: '4' :: ':' :: '0' :: 'x' :: ds => (numeral 16 ds).map (BitVec.ofNat 64)
  | _ =>
    let body := (signOf cs).2
    let mant := body.takeWhile fun c => c != 'e' && c != 'E'
    let expo := body.drop (mant.length + 1)
    let whole := mant.takeWhile fun c => c != '.'
    let frac := mant.drop (whole.length + 1)
    let hasPoint := mant.contains '.'
    let hasExpo := decide (mant.length < body.length)
    if hasPoint || hasExpo then
      match numeral 10 (whole ++ frac), if hasExpo then numeral 10 (signOf expo).2 else some 0 with
      | some n, some x =>
        if (signOf expo).1 then some (bits64 (decimalF64 (signOf cs).1 n 0 (frac.length + x)))
        else some (bits64 (decimalF64 (signOf cs).1 n x frac.length))
      | _, _ => none
    else none

/-- The names of the identity, control and configuration registers (10_state.md R30). -/
def controlRegNames : List (String × Reg) :=
  [("ID", .id), ("VERSION", .version), ("PARAMS", .params), ("CMD", .cmd), ("STATUS", .status),
   ("ERR_FLAGS", .errFlags), ("ERR_CODE", .errCode), ("IRQ_EN", .irqEn), ("CFG_WRITTEN", .cfgWritten),
   ("CADENCE_SEL", .cfg .cadenceSel), ("FS_LO", .cfg .fsLo), ("FS_HI", .cfg .fsHi), ("F0_LO", .cfg .f0Lo),
   ("F0_HI", .cfg .f0Hi), ("F1_LO", .cfg .f1Lo), ("F1_HI", .cfg .f1Hi), ("SPS", .cfg .sps),
   ("PACKETS", .cfg .packets), ("PPS_LO", .cfg .ppsLo), ("PPS_HI", .cfg .ppsHi), ("PERIOD_LO", .cfg .periodLo),
   ("PERIOD_HI", .cfg .periodHi), ("DEFP_LO", .cfg .defpLo), ("DEFP_HI", .cfg .defpHi)]

/-- The names of the decoder view and result registers (10_state.md R30). -/
def resultRegNames : List (String × Reg) :=
  [("BYTE_SEL", .byteSel), ("BYTE_DATA", .byteData), ("NIBBLE_COUNT", .nibbleCount), ("BIT_COUNT", .bitCount),
   ("DEC_STATUS", .decStatus), ("PERIOD_RES_LO", .periodResLo), ("PERIOD_RES_HI", .periodResHi),
   ("S2S_LO", .s2sLo), ("S2S_HI", .s2sHi), ("FTW0", .ftw0), ("FTW1", .ftw1),
   ("PACKET_SAMPLES_LO", .packetSamplesLo), ("PACKET_SAMPLES_HI", .packetSamplesHi),
   ("GAP_SAMPLES_LO", .gapSamplesLo), ("GAP_SAMPLES_HI", .gapSamplesHi), ("PACKET_COUNT", .packetCount),
   ("TOTAL_SAMPLES_LO", .totalSamplesLo), ("TOTAL_SAMPLES_HI", .totalSamplesHi),
   ("TOTAL_DURATION_LO", .totalDurationLo), ("TOTAL_DURATION_HI", .totalDurationHi),
   ("EMITTED_LO", .emittedLo), ("EMITTED_HI", .emittedHi), ("PHASE", .phase)]

/-- The names of the registers (10_state.md R30). -/
def regNames : List (String × Reg) := controlRegNames ++ resultRegNames

/-- The register a name stands for. -/
def regNamed (cs : List Char) : Option Reg := regNames.lookup (String.ofList cs)

/-- The names of the pairs (10_state.md R30). -/
def pairNames : List (String × RegPair) :=
  [("FS", .fs), ("F0", .f0), ("F1", .f1), ("PPS", .pps), ("PERIOD", .period), ("DEFP", .defp),
   ("PERIOD_RES", .periodRes), ("S2S", .s2s), ("PACKET_SAMPLES", .packetSamples), ("GAP_SAMPLES", .gapSamples),
   ("TOTAL_SAMPLES", .totalSamples), ("TOTAL_DURATION", .totalDuration), ("EMITTED", .emitted)]

/-- The pair a name stands for. -/
def pairNamed (cs : List Char) : Option RegPair := pairNames.lookup (String.ofList cs)

/-- A letter in upper case: mnemonics are case-insensitive (30_encoding.md R116). -/
def upperChar (c : Char) : Char := if 'a' ≤ c ∧ c ≤ 'z' then Char.ofNat (c.toNat - 32) else c

/-- White space between the words of a line: space and tab, DESIGN CHOICE (log entry 19). -/
def isBlank (c : Char) : Bool := c == ' ' || c == '\t'

/-- The text without the blanks at its ends. -/
def trim (cs : List Char) : List Char := ((cs.dropWhile isBlank).reverse.dropWhile isBlank).reverse

/-- The line without its comment, from the first `;` that stands neither in a character literal nor in a text in
double quotes, where an escape keeps its character (30_encoding.md R116, R117); `quoted` says whether what follows
stands in such a text. That a `;` so enclosed begins no comment is a DESIGN CHOICE (log entry 19). -/
def uncomment : Bool → List Char → List Char
  | _, [] => []
  | true, '\\' :: c :: cs => '\\' :: c :: uncomment true cs
  | true, c :: cs => c :: uncomment (c != '"') cs
  | false, '\'' :: c :: '\'' :: cs => '\'' :: c :: '\'' :: uncomment false cs
  | false, c :: cs => if c == ';' then [] else c :: uncomment (c == '"') cs

/-- The bytes of a text in double quotes, with the escapes of 30_encoding.md R117; the text ends at the closing
quote. That a character stands for the one byte of its code point, and that a character above 0xFF, a backslash of no
escape and a quote inside the text are refused, is a DESIGN CHOICE (log entry 19). -/
def textBytes : List Char → Option (List Byte)
  | ['"'] => some []
  | '\\' :: 'n' :: cs => (textBytes cs).map ((0x0A : Byte) :: ·)
  | '\\' :: 't' :: cs => (textBytes cs).map ((0x09 : Byte) :: ·)
  | '\\' :: 'r' :: cs => (textBytes cs).map ((0x0D : Byte) :: ·)
  | '\\' :: '\\' :: cs => (textBytes cs).map ((0x5C : Byte) :: ·)
  | '\\' :: '"' :: cs => (textBytes cs).map ((0x22 : Byte) :: ·)
  | c :: cs =>
    if c == '\\' || c == '"' || decide (256 ≤ c.toNat) then none
    else (textBytes cs).map (BitVec.ofNat 8 c.toNat :: ·)
  | [] => none

/-- The bytes of an operand in double quotes. -/
def quotedBytes : List Char → Option (List Byte)
  | '"' :: cs => textBytes cs
  | _ => none

/-- An integer literal that fits in n bits; a wider one is refused, DESIGN CHOICE (log entry 19). -/
def sizedLiteral (n : Nat) (cs : List Char) : Option (BitVec n) :=
  match intLiteral cs with
  | some v => if v < 2 ^ n then some (BitVec.ofNat n v) else none
  | none => none

/-- The two operands on either side of the first comma. -/
def twoOperands (cs : List Char) : List Char × List Char :=
  (trim (cs.takeWhile fun c => c != ','), trim ((cs.dropWhile fun c => c != ',').drop 1))

/-- A line from its mnemonic and the text of its operands (30_encoding.md R116, R117). -/
def parseOp (mnemonic : String) (args : List Char) : Option HostLine :=
  let two := twoOperands args
  match mnemonic with
  | "WR" =>
    match regNamed two.1, sizedLiteral 32 two.2 with
    | some r, some v => some (.op (.wr r v))
    | _, _ => none
  | "RD" => (regNamed args).map fun r => .op (.rd r)
  | "PUSHC" => (sizedLiteral 8 args).map fun c => .op (.command (.pushc c))
  | "NOP" => if args = [] then some (.op (.command .nop)) else none
  | "CLRPAY" => if args = [] then some (.op (.command .clrpay)) else none
  | "TUNE" => if args = [] then some (.op (.command .tune)) else none
  | "BUILD" => if args = [] then some (.op (.command .build)) else none
  | "RESOLVE" => if args = [] then some (.op (.command .resolve)) else none
  | "CLRST" => if args = [] then some (.op (.command .clrst)) else none
  | "SRST" => if args = [] then some (.op (.command .srst)) else none
  | "WR64" =>
    match pairNamed two.1, f64Literal two.2 with
    | some x, some v => some (.wr64 x v)
    | _, _ => none
  | "PUSHS" => (quotedBytes args).map .pushs
  | "SETHEX" => (quotedBytes args).map .sethex
  | "WAITIDLE" => if args = [] then some .waitidle else none
  | "WAITDONE" => if args = [] then some .waitdone else none
  | "EXPECT" =>
    match regNamed two.1, sizedLiteral 32 two.2 with
    | some r, some v => some (.expect r v)
    | _, _ => none
  | _ => none

/-- A line of text: nothing for an empty line or a comment alone, else its operation; none where it is no line of
the syntax (30_encoding.md R116). What R116 and R117 leave open is read as log entry 19 says (DESIGN CHOICE). -/
def parseLine (cs : List Char) : Option (List HostLine) :=
  let line := trim (uncomment false cs)
  let word := line.takeWhile fun c => !isBlank c
  if line = [] then some []
  else (parseOp (String.ofList (word.map upperChar)) (trim (line.drop word.length))).map fun l => [l]

end Sys2Proof.Machine
end

