-- ==== Sys2Proof/Laws/Ops.lean ====
section
/-! SUPPORT. One lemma per shared operation that says what it can do. -/

namespace Sys2Proof.Machine

/-! ## Errors -/

@[simp] theorem codeAfter_of_ne_zero {c : BitVec 4} (h : c ≠ 0) (es : List Cause) : codeAfter c es = c := if_neg h

theorem code_ne_zero (e : Cause) : e.code ≠ 0 := by cases e <;> decide

theorem topCause_singleton (e : Cause) : topCause [e] = some e := by cases e <;> decide

theorem codeAfter_zero_singleton (e : Cause) : codeAfter 0 [e] = e.code := by
  simp [codeAfter, topCause_singleton]

theorem topCause_mem {es : List Cause} {e : Cause} (h : topCause es = some e) : e ∈ es := by
  have := List.find?_some h
  simpa using this

theorem mem_causePriority (e : Cause) : e ∈ causePriority := by cases e <;> decide

theorem topCause_isSome {es : List Cause} (h : es ≠ []) : (topCause es).isSome := by
  obtain ⟨e, rest, rfl⟩ := List.exists_cons_of_ne_nil h
  rw [topCause, List.find?_isSome]
  exact ⟨e, mem_causePriority e, by simp⟩

theorem flagsAfter_nil (f : BitVec 9) : flagsAfter f [] = f := rfl

theorem flagsAfter_cons (f : BitVec 9) (e : Cause) (es : List Cause) :
    flagsAfter f (e :: es) = flagsAfter (f ||| e.flag) es := rfl

/-- A flag is set after the causes are raised exactly when it was set or is the flag of one of them. -/
theorem getLsbD_flagsAfter (f : BitVec 9) (es : List Cause) (i : Nat) :
    (flagsAfter f es).getLsbD i = (f.getLsbD i || es.any fun e => e.flag.getLsbD i) := by
  induction es generalizing f with
  | nil => simp [flagsAfter_nil]
  | cons e es ih => simp [flagsAfter_cons, ih, Bool.or_assoc]

/-! ## The interrupt output -/

/-- What reaches the host's controller: a request while `irq` is 1, always the one that IRQ_ROUTE gives. -/
theorem hostIrq_eq_some_iff (s : State) (r : IrqRoute) :
    s.hostIrq = some r ↔ s.irqLevel = true ∧ r = s.build.irqRoute := by
  unfold State.hostIrq
  cases s.irqLevel
  · simp
  · simpa using eq_comm

/-! ## Binary64 -/

@[simp] theorem rne64_zero (neg : Bool) (d : Nat) : rne64 neg 0 d = .fin false 0 := by simp [rne64]

@[simp] theorem withZeroSign_zero (neg s : Bool) : F64.withZeroSign neg (.fin s 0) = .fin neg 0 := by
  simp [F64.withZeroSign]

@[simp] theorem withZeroSign_inf (neg s : Bool) : F64.withZeroSign neg (.inf s) = .inf s := rfl

theorem withZeroSign_of_ne_zero {neg s : Bool} {mag : Nat} (h : mag ≠ 0) :
    F64.withZeroSign neg (.fin s mag) = .fin s mag := by simp [F64.withZeroSign, h]

/-- What RNE64 answers: an exact zero, an infinity, or the rounded magnitude. -/
theorem rne64_cases (neg : Bool) (n d : Nat) :
    (n = 0 ∧ rne64 neg n d = .fin false 0) ∨
    (n ≠ 0 ∧ infUnits ≤ roundUnits 52 1074 n d ∧ rne64 neg n d = .inf neg) ∨
    (n ≠ 0 ∧ roundUnits 52 1074 n d < infUnits ∧ rne64 neg n d = .fin neg (roundUnits 52 1074 n d)) := by
  unfold rne64
  split
  · exact .inl ⟨‹_›, rfl⟩
  · split
    · exact .inr (.inl ⟨‹_›, ‹_›, rfl⟩)
    · exact .inr (.inr ⟨‹_›, by omega, rfl⟩)

/-- The sign of R10's zero is the only thing that a quotient or product adds to RNE64. -/
theorem rne64_withZeroSign (neg : Bool) {n : Nat} (h : n ≠ 0) (d : Nat) :
    (rne64 neg n d).withZeroSign neg = rne64 neg n d := by
  obtain ⟨h0, -⟩ | ⟨-, -, h1⟩ | ⟨-, -, h1⟩ := rne64_cases neg n d
  · exact absurd h0 h
  · rw [h1, withZeroSign_inf]
  · rw [h1]
    by_cases hm : roundUnits 52 1074 n d = 0
    · rw [hm, withZeroSign_zero]
    · exact withZeroSign_of_ne_zero hm

/-! ## Commands -/

theorem unlessBusy_busy {s : State} (h : s.status.busy = true) (f : State → State) :
    unlessBusy f s = .next (respond .written (raise .busyReject s)) := by simp [unlessBusy, h, completed]

theorem unlessBusy_idle {s : State} (h : s.status.busy = false) (f : State → State) :
    unlessBusy f s = .next (respond .written (f s)) := by simp [unlessBusy, h, completed]

/-- What a guarded command answers: always a next state, that of the command or of the rejection. -/
theorem unlessBusy_cases {f : State → State} {s t : State} (h : unlessBusy f s = .next t) :
    (s.status.busy = true ∧ t = respond .written (raise .busyReject s)) ∨
    (s.status.busy = false ∧ t = respond .written (f s)) := by
  cases hb : s.status.busy
  · rw [unlessBusy_idle hb] at h; cases h; exact .inr ⟨rfl, rfl⟩
  · rw [unlessBusy_busy hb] at h; cases h; exact .inl ⟨rfl, rfl⟩

theorem tune_ok {s : State} (h : s.cfg.tuneOk = true) : tune s = writeTuning s := by simp [tune, h]

theorem tune_refused {s : State} (h : s.cfg.tuneOk = false) : tune s = raise .configError s := by simp [tune, h]

/-- RESOLVE writes the cadence when there is no error, and otherwise raises the errors. -/
theorem resolve_cases (s : State) :
    (∃ p n, s.cfg.cadenceErrors = [] ∧ s.cfg.cadence = some (p, n) ∧ resolve s = writeCadence p n s) ∨
    ((s.cfg.cadenceErrors ≠ [] ∨ s.cfg.cadence = none) ∧ resolve s = raiseAll s.cfg.cadenceErrors s) := by
  cases he : s.cfg.cadenceErrors with
  | nil =>
    cases hc : s.cfg.cadence with
    | none => exact .inr ⟨.inr rfl, by simp [resolve, he, hc]⟩
    | some v => exact .inl ⟨v.1, v.2, rfl, rfl, by simp [resolve, he, hc]⟩
  | cons e es => exact .inr ⟨.inl (by simp), by simp [resolve, he]⟩

/-- BUILD starts the press when there is no error, and otherwise raises the errors after its acceptance. -/
theorem build_cases (s : State) :
    (∃ p n, s.buildErrors = [] ∧ s.cfg.cadence = some (p, n) ∧ build s = buildPress p n (acceptBuild s)) ∨
    ((s.buildErrors ≠ [] ∨ s.cfg.cadence = none) ∧ build s = raiseAll s.buildErrors (acceptBuild s)) := by
  cases he : s.buildErrors with
  | nil =>
    cases hc : s.cfg.cadence with
    | none => exact .inr ⟨.inr rfl, by simp [build, he, hc]⟩
    | some v => exact .inl ⟨v.1, v.2, rfl, rfl, by simp [build, he, hc]⟩
  | cons e es => exact .inr ⟨.inl (by simp), by simp [build, he]⟩

/-- The engine starts, or the empty press is done. -/
theorem startEngine_cases (n : Nat) (s : State) :
    (s.total n = 0 ∧ startEngine n s =
      { s with engine := { s.engine with k := 0, acc := 0 }, status := { s.status with done := true } }) ∨
    (s.total n ≠ 0 ∧ startEngine n s =
      { s with engine := { k := 0, acc := 0, snap := s.snapshot n }, status := { s.status with busy := true } }) := by
  by_cases h : s.total n = 0
  · exact .inl ⟨h, by simp [startEngine, h]⟩
  · exact .inr ⟨h, by simp [startEngine, h]⟩

/-! ## Configuration writes and the payload memory -/

theorem writeCfg_busy {s : State} (h : s.status.busy = true) (x : CfgReg) (v : Word) :
    writeCfg x v s = raise .busyReject s := by simp [writeCfg, h]

theorem writeCfg_idle {s : State} (h : s.status.busy = false) (x : CfgReg) (v : Word) :
    writeCfg x v s =
      { s with cfg := (s.cfg.store x v).markWritten x, status := s.status.afterCfgWrite x } := by
  simp [writeCfg, h]

/-- What one character can do to the payload. -/
theorem feed_cases (cap : Nat) (p : Payload) (c : Byte) :
    p.feed cap c = (p, []) ∨
    (p.phase = .body ∧ p.feed cap c = ({ p with phase := .trail }, [])) ∨
    p.feed cap c = ({ p with badHex := true }, [.invalidHex]) ∨
    (p.n = cap ∧ p.feed cap c = ({ p with overflow := true }, [.payloadOverflow])) ∨
    (p.n ≠ cap ∧ p.feed cap c = (p.push (nibbleOf (lowerHex c)), [])) := by
  unfold Payload.feed
  split
  · split
    · exact .inr (.inl ⟨‹_›, rfl⟩)
    · exact .inl rfl
  · split
    · exact .inr (.inr (.inl rfl))
    · split
      · exact .inr (.inr (.inr (.inl ⟨‹_›, rfl⟩)))
      · exact .inr (.inr (.inr (.inr ⟨‹_›, rfl⟩)))
  · exact .inr (.inr (.inl rfl))

theorem wf_iff (cap : Nat) (p : Payload) : p.wf cap = true ↔ p.nib.length = cap ∧ p.n ≤ cap := by
  simp [Payload.wf]

theorem reset_wf (cap : Nat) : (Payload.reset cap).wf cap = true := by simp [wf_iff, Payload.reset]

theorem clear_wf {cap : Nat} {p : Payload} (h : p.wf cap = true) : p.clear.wf cap = true := by
  simp_all [wf_iff, Payload.clear]

theorem push_wf {cap : Nat} {p : Payload} (h : p.wf cap = true) (hn : p.n ≠ cap) (d : Nibble) :
    (p.push d).wf cap = true := by
  simp only [wf_iff, Payload.push, List.length_set] at *
  omega

/-- Every character keeps the form of the payload memory. -/
theorem feed_wf {cap : Nat} {p : Payload} (h : p.wf cap = true) (c : Byte) : (p.feed cap c).1.wf cap = true := by
  obtain h1 | ⟨-, h1⟩ | h1 | ⟨-, h1⟩ | ⟨hn, h1⟩ := feed_cases cap p c <;> rw [h1]
  · exact h
  · exact h
  · exact h
  · exact h
  · exact push_wf h hn _

/-- A digit just stored is read back, and every other cell keeps its digit. -/
theorem push_getElem? {p : Payload} (h : p.n < p.nib.length) (d : Nibble) (i : Nat) :
    (p.push d).nib[i]? = if i = p.n then some d else p.nib[i]? := by
  simp only [Payload.push, List.getElem?_set]
  by_cases hi : i = p.n
  · subst hi; simp [h]
  · have hi' : ¬p.n = i := fun e => hi e.symm
    simp [hi, hi']

/-! ## The engine -/

/-- What the producer answers: a fault, a packet sample or a gap sample. -/
theorem produce_cases {b : Build} {p : Snapshot} {k : Nat} {acc : Word} {e : Emission} {a : Word}
    (h : produce b p k acc = .ok (e, a)) :
    p.usable = true ∧
    ((k % p.unit < p.pkt ∧ ∃ bit x, p.bits[(k % p.unit) / p.sps]? = some bit ∧
        a = nextAcc b p (k % p.unit) acc bit ∧ toneEntry b (toneIndex b a.toNat) = some x ∧
        e = { word := sampleWord x, sop := k % p.unit == 0, gap := false, last := k + 1 == p.total }) ∨
     (¬ k % p.unit < p.pkt ∧ a = acc ∧
        e = { word := 0, sop := k % p.unit == 0, gap := true, last := k + 1 == p.total })) := by
  unfold produce at h
  split at h
  · cases h
  · rename_i hu
    refine ⟨by simpa using hu, ?_⟩
    split at h
    · rename_i hi
      split at h
      · cases h
      · rename_i bit hb
        split at h
        · cases h
        · rename_i x hx
          cases h
          exact .inl ⟨hi, bit, x, hb, rfl, hx, rfl⟩
    · rename_i hi
      cases h
      exact .inr ⟨hi, rfl, rfl⟩

/-- What an engine step can do. -/
theorem engineStep_cases {s t : State} (h : engineStep s = .next t) :
    (s.status.busy = false ∧ t = s) ∨
    (s.status.busy = true ∧ ∃ e a, produce s.build s.engine.snap s.engine.k.toNat s.engine.acc = .ok (e, a) ∧
      t = emit e a s) := by
  cases hb : s.status.busy
  · simp [engineStep, State.offer, hb] at h
    exact .inl ⟨rfl, h.symm⟩
  · simp only [engineStep, State.offer, hb, if_true] at h
    split at h
    · simp at *
    · cases h
    · rename_i e a he
      cases h
      exact .inr ⟨rfl, e, a, by simpa using he, rfl⟩

/-! ## Agents and the step -/

/-- A host access is performed, or it is not this block's to answer. -/
theorem hostAccess_cases (page : Nat) (a : BusAccess) (s : State) :
    ((s.resetPin = true ∨ page ≠ s.build.page) ∧ hostAccess page a s = .next (respond .none s)) ∨
    (s.resetPin = false ∧ page = s.build.page ∧ hostAccess page a s = exec (accessInstr a) s) := by
  unfold hostAccess
  by_cases h : (s.resetPin || page != s.build.page) = true
  · rw [if_pos h]; exact .inl ⟨by simpa using h, rfl⟩
  · rw [if_neg h]
    simp only [Bool.or_eq_true, bne_iff_ne, not_or, Bool.not_eq_true, not_not] at h
    exact .inr ⟨h.1, h.2, rfl⟩

/-- What a step can do. -/
theorem step_cases {s t : State} (h : step s = .next t) :
    (s.inputs = [] ∧ t = s) ∨
    (∃ e rest, s.inputs = e :: rest ∧ perform e { s with inputs := rest } = .next t) := by
  unfold step takeEvent at h
  cases hi : s.inputs with
  | nil => simp [hi] at h; exact .inl ⟨rfl, h.symm⟩
  | cons e rest => simp only [hi] at h; exact .inr ⟨e, rest, rfl, h⟩

theorem step_nil {s : State} (h : s.inputs = []) : step s = .next s := by simp [step, takeEvent, h]

theorem step_cons {s : State} {e : Event} {rest : List Event} (h : s.inputs = e :: rest) :
    step s = perform e { s with inputs := rest } := by simp [step, takeEvent, h]

/-! ## Host operations always go on -/

theorem completed_goes (s : State) : ∃ t, completed s = .next t := ⟨_, rfl⟩

theorem unlessBusy_goes (f : State → State) (s : State) : ∃ t, unlessBusy f s = .next t := by
  unfold unlessBusy; split <;> exact ⟨_, rfl⟩

theorem performCommand_goes (c : Command) (s : State) : ∃ t, performCommand c s = .next t := by
  cases c
  case nop => exact ⟨_, rfl⟩
  case clrst => exact ⟨_, rfl⟩
  case srst => exact ⟨_, rfl⟩
  all_goals exact unlessBusy_goes _ s

theorem writeOffset_goes (o : Offset) (w : Word) (s : State) : ∃ t, writeOffset o w s = .next t := by
  unfold writeOffset dispatchCmd
  split
  · split
    · exact performCommand_goes _ s
    · exact ⟨_, rfl⟩
  all_goals exact ⟨_, rfl⟩

/-- A command word written to CMD is the command. -/
theorem dispatchCmd_ok {w : Word} {c : Command} (h : decodeCmd w = .ok c) (s : State) :
    dispatchCmd w s = exec c.toInstr s := by
  simp only [dispatchCmd, h]
  cases c <;> rfl

end Sys2Proof.Machine
end

