-- ==== Sys2Proof/Laws/HostProgram.lean ====
section
/-! SUPPORT. What one step of a host program can do, and when its polling loops end. -/

namespace Sys2Proof.Machine

@[simp] theorem itemEnds_op (o : HostOp) (r : Response) : itemEnds (.op o) r = true := rfl

@[simp] theorem itemEnds_poll_read (bit : Nat) (level : Bool) (w : Word) :
    itemEnds (.poll bit level) (.read w) = (w.getLsbD bit == level) := rfl

/-- A step of the host performs its first item; an item that the answer does not end stays first. -/
theorem HostRun.turn_host_cases {page : Nat} {h g : HostRun} (ht : h.turn page .host = .next g) :
    (h.program = [] ∧ g = h) ∨
    (∃ it rest t, h.program = it :: rest ∧ perform (itemEvent page it) h.block = .next t ∧
      g = { program := if itemEnds it t.resp then rest else it :: rest, block := t }) := by
  cases hp : h.program with
  | nil =>
    simp only [HostRun.turn, hp] at ht
    cases ht
    exact .inl ⟨rfl, rfl⟩
  | cons it rest =>
    simp only [HostRun.turn, hp, HostRun.afterResult] at ht
    split at ht
    · rename_i t hn; cases ht; exact .inr ⟨it, rest, t, rfl, hn, rfl⟩
    · cases ht
    · cases ht

/-- A step of another agent leaves the host's program as it is. -/
theorem HostRun.turn_other_cases {page : Nat} {h g : HostRun} {e : Event} (ht : h.turn page (.other e) = .next g) :
    ∃ t, perform e h.block = .next t ∧ g = { program := h.program, block := t } := by
  simp only [HostRun.turn, HostRun.afterResult] at ht
  split at ht
  · rename_i t hn; cases ht; exact ⟨t, hn, rfl⟩
  · cases ht
  · cases ht

/-- One read of a polling loop: STATUS is read and nothing else happens. -/
theorem perform_poll {s : State} (h : s.resetPin = false) (bit : Nat) (level : Bool) :
    perform (itemEvent s.build.page (.poll bit level)) s = .next (respond (.read s.statusWord) s) := by
  have hi : accessInstr (hostOpAccess (.rd .status)) = .rd 0x014 32 := by decide
  simp only [itemEvent, itemOp, perform, hostAccess, h, bne_self_eq_false, Bool.or_self, Bool.false_eq_true, if_false,
    hi]
  rfl

/-- A polling loop goes on until STATUS has the bit at the level (30_encoding.md R117). -/
theorem HostRun.turn_poll {s : State} (h : s.resetPin = false) (bit : Nat) (level : Bool) (rest : List HostItem) :
    HostRun.turn s.build.page .host { program := .poll bit level :: rest, block := s } =
      .next { program := if s.statusWord.getLsbD bit == level then rest else .poll bit level :: rest
              block := respond (.read s.statusWord) s } := by
  simp only [HostRun.turn, perform_poll h, HostRun.afterResult, respond_resp, itemEnds_poll_read]
  rfl

theorem statusWord_busy (s : State) : s.statusWord.getLsbD 0 = s.status.busy := by
  simp only [State.statusWord, BitVec.getLsbD_append]
  simp

theorem statusWord_done (s : State) : s.statusWord.getLsbD 1 = s.status.done := by
  simp only [State.statusWord, BitVec.getLsbD_append]
  simp

/-- WAITIDLE ends with a read at BUSY = 0 and repeats the read at BUSY = 1. -/
theorem HostRun.turn_waitidle {s : State} (h : s.resetPin = false) (rest : List HostItem) :
    HostRun.turn s.build.page .host { program := expand .waitidle ++ rest, block := s } =
      .next { program := if s.status.busy then expand .waitidle ++ rest else rest
              block := respond (.read s.statusWord) s } := by
  have := HostRun.turn_poll h 0 false rest
  rw [statusWord_busy] at this
  cases hb : s.status.busy <;> simpa [expand, hb] using this

/-- WAITDONE ends with a read at DONE = 1 and repeats the read at DONE = 0. -/
theorem HostRun.turn_waitdone {s : State} (h : s.resetPin = false) (rest : List HostItem) :
    HostRun.turn s.build.page .host { program := expand .waitdone ++ rest, block := s } =
      .next { program := if s.status.done then rest else expand .waitdone ++ rest
              block := respond (.read s.statusWord) s } := by
  have := HostRun.turn_poll h 1 true rest
  rw [statusWord_done] at this
  cases hb : s.status.done <;> simpa [expand, hb] using this

end Sys2Proof.Machine
end

