-- ==== Sys2Proof/Laws/PerInstr.lean ====
section
/-! SUPPORT. What holds of every instruction as syntax, one lemma per constructor. -/

namespace Sys2Proof.Laws

/-- The transaction of a well-formed instruction has a legal shape (20_memory.md R83). -/
def EncodedShape.Statement (i : Instr) : Prop := i.wellFormed = true → accessBadShape (encode i) = none

theorem offset_of_header (b : Bool) (o : Offset) : (accessHeader b o).extractLsb' 0 12 = o := by
  apply BitVec.eq_of_getLsbD_eq
  intro i hi
  have h : (accessHeader b o).getLsbD i = o.getLsbD i := by
    simp only [accessHeader, BitVec.getLsbD_append, hi, if_true]
  simp [hi, h]

theorem write_of_header (b : Bool) (o : Offset) : (accessHeader b o)[12] = b := by
  have h : (accessHeader b o).getLsbD 12 = b := by
    rw [accessHeader, BitVec.getLsbD_append]
    simp
  rw [BitVec.getLsbD_eq_getElem (by decide)] at h
  exact h

theorem accessOffset_mk (b : Bool) (o : Offset) (n : Nat) (st : BitVec 4) (d : Word) :
    accessOffset { header := accessHeader b o, bits := n, strobes := st, data := d } = o :=
  offset_of_header b o

theorem accessIsWrite_mk (b : Bool) (o : Offset) (n : Nat) (st : BitVec 4) (d : Word) :
    accessIsWrite { header := accessHeader b o, bits := n, strobes := st, data := d } = b :=
  write_of_header b o

theorem cmdAccess_shape (w : Word) : accessBadShape (cmdAccess w) = none := by
  have h : alignedOffset cmdOffset = true := by decide
  simp [accessBadShape, cmdAccess, accessOffset_mk, accessIsWrite_mk, h]

namespace EncodedShape

theorem nop : EncodedShape.Statement .nop := fun _ => cmdAccess_shape _

theorem clrpay : EncodedShape.Statement .clrpay := fun _ => cmdAccess_shape _

theorem pushc (c : Byte) : EncodedShape.Statement (.pushc c) := fun _ => cmdAccess_shape _

theorem tune : EncodedShape.Statement .tune := fun _ => cmdAccess_shape _

theorem build : EncodedShape.Statement .build := fun _ => cmdAccess_shape _

theorem resolve : EncodedShape.Statement .resolve := fun _ => cmdAccess_shape _

theorem clrst : EncodedShape.Statement .clrst := fun _ => cmdAccess_shape _

theorem srst : EncodedShape.Statement .srst := fun _ => cmdAccess_shape _

theorem rd (offset : Offset) (bits : Nat) : EncodedShape.Statement (.rd offset bits) := by
  intro h
  simp only [Instr.wellFormed, readShapeOk, Bool.and_eq_true, beq_iff_eq] at h
  simp [accessBadShape, encode, accessOffset_mk, accessIsWrite_mk, h.1, h.2]

theorem wr (offset : Offset) (bits : Nat) (strobes : BitVec 4) (data : Word) :
    EncodedShape.Statement (.wr offset bits strobes data) := by
  intro h
  simp only [Instr.wellFormed, writeShapeOk, readShapeOk, Bool.and_eq_true, beq_iff_eq] at h
  simp [accessBadShape, encode, accessOffset_mk, accessIsWrite_mk, h.1.1.1, h.1.1.2, h.1.2]

end EncodedShape

end Sys2Proof.Laws
end

