-- ==== Sys2Proof/Tests/Slice0.lean ====
section
/-! SUPPORT. The author's own tests: WellFormed and the decoders refuse ill-formed operations by name, a word of every
row decodes, one-step tests with the expected values of 95_test_vectors.md, and for every statement with hypotheses a
state and operands that meet them together. -/

open Sys2Proof Sys2Proof.Machine

/-! ## WellFormed -/

theorem test_wf_refuses_misaligned_read : (Instr.rd 0x002 32).wellFormed = false := by decide

theorem test_wf_refuses_narrow_read : (Instr.rd 0x014 16).wellFormed = false := by decide

theorem test_wf_refuses_wide_read : (Instr.rd 0x014 64).wellFormed = false := by decide

theorem test_wf_refuses_misaligned_write : (Instr.wr 0x04A 32 0xF 1).wellFormed = false := by decide

theorem test_wf_refuses_narrow_write : (Instr.wr 0x048 8 0xF 1).wellFormed = false := by decide

theorem test_wf_refuses_clear_strobe : (Instr.wr 0x048 32 0x1 1).wellFormed = false := by decide

theorem test_wf_refuses_write_that_spells_a_command : (Instr.wr 0x010 32 0xF 0x00000004).wellFormed = false := by
  decide

theorem test_wf_takes_write_of_illegal_word : (Instr.wr 0x010 32 0xF 0x00010004).wellFormed = true := by decide

/-! ## Decoding -/

/-- The rows of 95_test_vectors.md section 3.1 that decode. -/
theorem test_decode_commands :
    [0x00000000, 0x00000001, 0x00003002, 0x00004102, 0x0000FF02, 0x00000002, 0x00000003, 0x00000004, 0x00000005,
      0x00000006, 0x00000007].map (fun w => (decodeCmd w).toOption) =
    [some .nop, some .clrpay, some (.pushc 0x30), some (.pushc 0x41), some (.pushc 0xFF), some (.pushc 0x00),
      some .tune, some .build, some .resolve, some .clrst, some .srst] := by decide

theorem test_illegal_arg : decodeCmd 0x00000100 = .error .argNotZero := by decide

theorem test_illegal_arg_clrst : decodeCmd 0x00000606 = .error .argNotZero := by decide

theorem test_illegal_opcode : decodeCmd 0x00000108 = .error .unknownOpcode := by decide

theorem test_illegal_reserved : decodeCmd 0x80000002 = .error .reservedNotZero := by decide

/-- RD STATUS, 30_encoding.md R106: 0, then the offset 000000010100. -/
theorem test_decode_rd :
    decode { header := 0b0000000010100#13, bits := 32, strobes := 0, data := 7 } = .ok (.rd 0x014 32) := by decide

/-- WR SPS, 4, 30_encoding.md R106: 1, then the offset 000001001000. -/
theorem test_decode_wr :
    decode { header := 0b1000001001000#13, bits := 32, strobes := 0xF, data := 4 } = .ok (.wr 0x048 32 0xF 4) := by
  decide

/-- A command on the bus: WR CMD, offset 000000010000, with the word of each row of 30_encoding.md R101. -/
theorem test_decode_bus_commands :
    [0b00000000000000000000000000000000#32, 0b00000000000000000000000000000001#32,
      0b00000000000000001010010100000010#32, 0b00000000000000000000000000000011#32,
      0b00000000000000000000000000000100#32, 0b00000000000000000000000000000101#32,
      0b00000000000000000000000000000110#32, 0b00000000000000000000000000000111#32].map
      (fun w => (decode { header := 0b1000000010000#13, bits := 32, strobes := 0xF, data := w }).toOption) =
    [some .nop, some .clrpay, some (.pushc 0xA5), some .tune, some .build, some .resolve, some .clrst,
      some .srst] := by decide

theorem test_bad_shape_misaligned :
    decode { header := 0b0000000000010#13, bits := 32, strobes := 0xF, data := 0 } = .error .misaligned := by decide

theorem test_bad_shape_narrow :
    decode { header := 0b0000000010100#13, bits := 16, strobes := 0xF, data := 0 } = .error .notFullWord := by decide

theorem test_bad_shape_strobe :
    decode { header := 0b1000001001000#13, bits := 32, strobes := 0x1, data := 0 } = .error .strobeClear := by decide

theorem test_table_word_rd : decodeTableWord 16 0b0000011001000 = some (.rd 0x0C8 32) := by decide

theorem test_table_word_refused : decodeTableWord 16 0b0000000000001 = none := by decide

/-! ## States for the tests -/

/-- Whether an operation goes on to a state with a property. -/
def goesTo (r : Result) (p : State → Bool) : Bool :=
  match r with
  | .next t => p t
  | .fault _ => false
  | .refused _ => false

/-- Case BLD1 of 95_test_vectors.md section 6 before its BUILD: FS = 1000.0, F0 = 100.0, F1 = 200.0, SPS = 4,
PACKETS = 2, PERIOD = 0.05, payload "00". -/
def ready : State :=
  { State.reset with
    cfg := { CfgRegs.reset with
      cadenceSel := 2
      fsHi := 0x408F4000
      f0Hi := 0x40590000
      f1Hi := 0x40690000
      sps := 4
      packets := 2
      periodLo := 0x9999999A
      periodHi := 0x3FA99999
      written := 0xCFF }
    payload := { Payload.reset 256 with n := 2, phase := .body } }

/-- `ready` with another payload phase and digit count. -/
def readyWith (n : Nat) (ph : DecPhase) : State :=
  { ready with payload := { ready.payload with n := n, phase := ph } }

/-- The snapshot of the press of `ready`. -/
def readySnap : Snapshot :=
  { bits := List.replicate 8 false, sps := 4, ftw0 := 0x1999999A, ftw1 := 0x33333333, pkt := 32, unit := 50,
    packets := 2, total := 100 }

/-- The press of `ready` in progress, before sample k. -/
def running (k : DWord) (acc : Word) : State :=
  { ready with
    status := { ready.status with busy := true }
    results := { ready.results with packetSamples := 32, gapSamples := 18, packetCount := 2, totalSamples := 100 }
    engine := { k := k, acc := acc, snap := readySnap } }

/-- A state with an event to come. -/
def facing (e : Event) (s : State) : State := { s with inputs := [e] }

/-! ## One-step tests, values of 95_test_vectors.md -/

/-- The word placed after reset is the word that runs: PUSHC 'A' stores nibble 10. -/
theorem test_fetch_word :
    goesTo (step (State.reset.withFetchWord 32 0x00004102))
      (fun t => t.payload.n == 1 && t.payload.nib[0]? == some 10 && t.inputs == []) = true := by decide

/-- CTL4. -/
theorem test_nop : goesTo (exec .nop (running 1 0)) (fun t => t == { running 1 0 with resp := .written }) = true := by
  decide +kernel

/-- The note on DEC7: ERR_FLAGS stays until CLRST. -/
theorem test_clrpay :
    goesTo (exec .clrpay { readyWith 5 .trail with errFlags := 1 })
      (fun t => readOffset t 0x070 == 0 && readOffset t 0x078 == 0 && t.errFlags == 1) = true := by decide

theorem test_clrpay_busy :
    goesTo (exec .clrpay (running 1 0)) (fun t => t.payload.n == 2 && t.errFlags == 0x080 && t.errCode == 8) =
      true := by decide

/-- DEC5: the second digit is an upper-case one. -/
theorem test_pushc_digit :
    goesTo (exec (.pushc 0x41) (readyWith 1 .body))
      (fun t => t.payload.n == 2 && t.payload.nib[1]? == some 10 && t.errFlags == 0) = true := by decide

/-- DEC15: the 257th digit. -/
theorem test_pushc_full :
    goesTo (exec (.pushc 0x31) (readyWith 256 .body))
      (fun t => t.payload.n == 256 && readOffset t 0x078 == 0x9 && t.errFlags == 2 && t.errCode == 2) = true := by
  decide

/-- Section 4.2, the first row, and the tie row FS = 2^33, F0 = 1.0, F1 = 3.0. -/
theorem test_tune :
    goesTo (exec .tune ready)
      (fun t => t.results.ftw0 == 0x1999999A && t.results.ftw1 == 0x33333333 && t.statusWord == 0x40) = true ∧
    goesTo (exec .tune { ready with
      cfg := { ready.cfg with fsHi := 0x42000000, f0Hi := 0x3FF00000, f1Hi := 0x40080000 } })
      (fun t => t.results.ftw0 == 0 && t.results.ftw1 == 2) = true := by decide +kernel

/-- BLD1, and BLD22 with PERIOD = 1e15 and PACKETS = 19. -/
theorem test_build :
    goesTo (exec .build ready)
      (fun t => t.statusWord == 0x65 && t.engine.snap == readySnap && t.results.gapSamples == 18 &&
        t.results.totalDuration == 0x3FB999999999999A) = true ∧
    goesTo (exec .build { ready with
      cfg := { ready.cfg with periodLo := 0x26340000, periodHi := 0x430C6BF5, packets := 19 } })
      (fun t => t.statusWord == 0x10 && t.errFlags == 0x020 && t.errCode == 6) = true := by decide +kernel

/-- RES10: PERIOD = 0.0015, a tie that goes to 2. -/
theorem test_resolve :
    goesTo (exec .resolve { ready with cfg := { ready.cfg with periodLo := 0xBC6A7EFA, periodHi := 0x3F589374 } })
      (fun t => t.results.s2s == 2 && t.results.periodRes == 0x3F589374BC6A7EFA && t.statusWord == 0x20) = true := by
  decide +kernel

/-- RES21: PPS = 0.0 and FS unwritten. -/
theorem test_resolve_two_causes :
    goesTo (exec .resolve { ready with cfg := { ready.cfg with cadenceSel := 1, written := 0x300 } })
      (fun t => t.errFlags == 0x014 && t.errCode == 5 && t.statusWord == 0x10) = true := by decide

/-- CTL3. -/
theorem test_clrst :
    goesTo (exec .clrst { running 5 0 with
      errFlags := 0x0C0
      errCode := 7
      status := { (running 5 0).status with gapClamped := true } })
      (fun t => t.errFlags == 0 && t.errCode == 0 && t.statusWord == 0x01) = true := by decide

/-- CTL7. -/
theorem test_srst :
    goesTo (exec .srst { running 37 0x1999999A with irqEn := 1 })
      (fun t => t.statusWord == 0 && t.cfg == .reset && t.engine.k == 0 && t.engine.acc == 0 && t.irqEn == 0) =
    true := by decide

/-- Section 3.2. -/
theorem test_rd :
    goesTo (exec (.rd 0x008 32) State.reset) (fun t => t == { State.reset with resp := .read 0x01000C20 }) = true := by
  decide +kernel

theorem test_rd_misaligned :
    goesTo (exec (.rd 0x002 32) State.reset)
      (fun t => t.resp == .readError 0 && t.errFlags == 0x100 && t.errCode == 9) = true := by decide

/-- Section 3.2: WR 0x028 with all ones. -/
theorem test_wr :
    goesTo (exec (.wr 0x028 32 0xF 0xFFFFFFFF) State.reset)
      (fun t => readOffset t 0x028 == 3 && t.cfg.written == 0 && t.resp == .written) = true := by decide

theorem test_wr_busy :
    goesTo (exec (.wr 0x048 32 0xF 9) (running 1 0)) (fun t => t.errFlags == 0x080 && t.cfg.sps == 4) = true := by
  decide

/-- Sample 0 of section 1, X4: index 409 of the reference table. -/
theorem test_engine_step :
    goesTo (step (facing .accept (running 0 0)))
      (fun t => t.stream == [{ word := 0x3F1648473F4F3F2B, sop := true, gap := false, last := false }] &&
        t.engine.acc == 0x1999999A && t.engine.k == 1) = true := by decide

/-- The last sample of P1 is a gap sample, and ends the press (STATUS from 0x01 to 0x02). -/
theorem test_engine_last_step :
    goesTo (step (facing .accept (running 99 4)))
      (fun t => t.stream == [{ word := 0, sop := false, gap := true, last := true }] && t.engine.acc == 4 &&
        t.statusWord == 0x02) = true := by decide

/-- Two entries of section 4.1. -/
theorem test_reference_table :
    sampleWord (referenceEntry 12 1) = 0x3AC90FD53F7FFFEC ∧
      sampleWord (referenceEntry 12 3276) = 0xBF73913F3E9D9E78 := by decide

/-- The literal 0.05 of section 0, and its two writes. -/
theorem test_wr64 :
    f64Literal ['0', '.', '0', '5'] = some 0x3FA999999999999A ∧
      (hostEvents 0 [.wr64 .period 0x3FA999999999999A]) =
        [.host 0 { header := 0x1058, bits := 32, strobes := 0xF, data := 0x9999999A },
          .host 0 { header := 0x105C, bits := 32, strobes := 0xF, data := 0x3FA99999 }] := by decide +kernel

/-- R117: WR64 takes every pair of the map; the writes to a read-only one have no effect. -/
theorem test_wr64_read_only :
    (hostEvents 0 [.wr64 .periodRes 0x3FF0000000000000]) =
        [.host 0 { header := 0x1080, bits := 32, strobes := 0xF, data := 0 },
          .host 0 { header := 0x1084, bits := 32, strobes := 0xF, data := 0x3FF00000 }] := by decide

/-- R116: a comment after the character literals of a double quote and of a letter, and none within one of `;`. -/
theorem test_uncomment :
    uncomment false ['P', ' ', '\'', '"', '\'', ' ', ';', ' ', 'n'] = ['P', ' ', '\'', '"', '\'', ' '] ∧
      uncomment false ['P', ' ', '\'', 'a', '\'', ';', '\'', 'x'] = ['P', ' ', '\'', 'a', '\''] ∧
      uncomment false ['P', '\'', ';', '\'', ';', 'n'] = ['P', '\'', ';', '\''] ∧
      uncomment false ['"', '\\', '"', ';', '"', ';'] = ['"', '\\', '"', ';', '"'] := by decide

/-- R117: WAITDONE reads STATUS again after the sink has accepted the last sample, and then ends. -/
theorem test_waitdone_repeats :
    (match HostRun.turns 0 [.host, .host, .other .accept, .host]
        { program := expand .waitdone, block := running 99 4 } with
      | .next g => g.program == [] && g.block.resp == .read 0x02
      | .fault _ => false
      | .refused _ => false) = true ∧
    (match HostRun.turns 0 [.host, .host] { program := expand .waitdone, block := running 99 4 } with
      | .next g => g.program == expand .waitdone && g.block.resp == .read 0x01
      | .fault _ => false
      | .refused _ => false) = true := by decide

/-- R10: an exact zero is +0, so the literal -0.0 is too, and -0.0 / 1.0 and 1.0 · -0.0 are -0. -/
theorem test_zero_signs :
    f64Literal ['-', '0', '.', '0'] = some 0 ∧ f64Div (.fin true 0) f64One = .fin true 0 ∧
      f64Mul f64One (.fin true 0) = .fin true 0 := by decide +kernel

/-- IRQ_ROUTE: with DONE set and enabled the request reaches the host's line. -/
theorem test_host_irq :
    ({ ready with
      irqEn := 1
      status := { ready.status with done := true }
      build := { ready.build with irqRoute := { line := 5, priority := 2 } } } : State).hostIrq =
      some { line := 5, priority := 2 } ∧ ready.hostIrq = none := by decide

/-! ## Witnesses: a state and operands that meet the hypotheses of a statement -/

theorem witness_decode_of_encode :
    (Instr.wr 0x010 32 0xF 0x00000008).wellFormed = true ∧ (Instr.rd 0xFFC 32).wellFormed = true := by decide

/-- Each clause of R103 at its boundary, and the legal words beside it. -/
theorem witness_illegal_words :
    decodeCmd 0x00010000 = .error .reservedNotZero ∧ decodeCmd 0x00000008 = .error .unknownOpcode ∧
      decodeCmd 0x00000107 = .error .argNotZero ∧ decodeCmd 0x00000007 = .ok .srst ∧
      decodeCmd 0x00000102 = .ok (.pushc 1) := by decide

theorem witness_step_runs_decoded :
    (facing (.host 0 (cmdAccess 3)) ready).inputs = .host (facing (.host 0 (cmdAccess 3)) ready).build.page
      (cmdAccess 3) :: [] ∧ (facing (.host 0 (cmdAccess 3)) ready).resetPin = false ∧
      decode (cmdAccess 3) = .ok .tune := by decide

theorem witness_fetched_word :
    decodeTableWord 32 4 = some .build ∧ decodeTableWord 16 0x14 = some (.rd 0x014 32) := by decide

/-- Each clause of bad shape. -/
theorem witness_bad_shape :
    (accessOffset { header := 0x0001, bits := 32, strobes := 0xF, data := 0 }).toNat % 4 ≠ 0 ∧
      ({ cmdAccess 0 with bits := 31 }).bits ≠ 32 ∧ accessIsWrite { cmdAccess 0 with strobes := 0xE } = true ∧
      ({ cmdAccess 0 with strobes := 0xE }).strobes ≠ 0xF := by decide

theorem witness_outside_window : ready.build.page ≠ 1 := by decide

theorem witness_legal_build : State.reset.build.legal = true ∧ State.reset.build = .reference := by decide

/-- The first and the last register of the map. -/
theorem witness_register_map :
    ((0x010 : Offset), (0 : Word)) ∈ registerReads (running 1 7) ∧
      ((0x0C8 : Offset), (7 : Word)) ∈ registerReads (running 1 7) := by decide

theorem witness_read_offset : (0xFFC : Offset).toNat % 4 = 0 := by decide

/-- Every clause of the reserved offsets, and the two ends of the last one. -/
theorem witness_reserved_offsets :
    reservedOffset 0x00C ∧ reservedOffset 0x02C ∧ reservedOffset 0x07C ∧ reservedOffset 0x0AC ∧
      reservedOffset 0x0CC ∧ reservedOffset 0xFFC ∧ ¬reservedOffset 0x0C8 := by
  unfold reservedOffset; decide

theorem witness_read_only : (0x000 : Offset) ∈ readOnlyOffsets ∧ (0x0C8 : Offset) ∈ readOnlyOffsets := by decide

/-- The two clauses of a configuration write, of BUSY and of the commands. -/
theorem witness_busy_and_idle : (running 1 0).status.busy = true ∧ ready.status.busy = false := by decide

theorem witness_distinct_registers : CfgReg.fsLo ≠ CfgReg.fsHi ∧ CfgReg.cadenceSel ≠ CfgReg.defpHi := by decide

/-- A character for each clause of PUSHC: white space in BODY and elsewhere, a digit in TRAIL, in a full buffer and in
a buffer with one cell left, and a bad one. -/
theorem witness_pushc_clauses :
    isWsCode 0x09 = true ∧ ready.payload.phase = .body ∧ isWsCode 0x20 = true ∧
      (readyWith 2 .trail).payload.phase ≠ .body ∧ isHexCode 0x66 = true ∧
      (readyWith 2 .trail).payload.phase = .trail ∧ (readyWith 256 .body).payload.n = ready.build.N ∧
      (readyWith 255 .body).payload.n ≠ ready.build.N ∧ isHexCode 0x47 = false ∧ isWsCode 0x47 = false := by
  decide

/-- After a CLRPAY from any idle state, and from the reset state with nothing before. -/
theorem witness_payload_text :
    (ready.status.busy = false ∧ ready.build.legal = true ∧ ready.payload.nib.length = ready.build.N) ∧
      (State.reset.payload.n = 0 ∧ State.reset.payload.phase = .lead ∧ State.reset.payload.badHex = false ∧
        State.reset.payload.overflow = false ∧ State.reset.payload.nib.length = State.reset.build.N) := by
  decide +kernel

/-- A text with both kinds of white space around its digits. -/
theorem witness_payload_text_accepted : PayloadText [0x20, 0x41, 0x35, 0x0A] :=
  ⟨[0x20], [0x41, 0x35], [0x0A], by decide, by decide, by decide, by decide⟩

theorem witness_decode_function :
    (readyWith 256 .body).payload.n ≤ (readyWith 256 .body).payload.nib.length ∧
      (readyWith 3 .body).payload.n ≤ (readyWith 3 .body).payload.nib.length := by decide +kernel

/-- BYTE_SEL at the last byte and one past it. -/
theorem witness_byte_data :
    (0 : Word).toNat < (ready.payload.n + 1) / 2 ∧ ¬ (1 : Word).toNat < (ready.payload.n + 1) / 2 := by decide

theorem witness_tune : ready.status.busy = false ∧ ready.cfg.tuneOk = true ∧ State.reset.cfg.tuneOk = false := by
  decide +kernel

theorem witness_tuning_word :
    (32 : Nat) ≤ 32 ∧ f64Div ready.cfg.fs ready.cfg.fs = .fin false (2 ^ 1074) := by decide +kernel

theorem witness_quadrants : (2 : Nat) ≤ 2 ∧ 2 ≤ 12 := by decide

theorem witness_reference_table : Build.reference.legal = true ∧ Build.reference.table = .reference := by decide

/-- All zeros, and all ones. -/
theorem witness_phase_closed_form :
    (∀ m, m ≤ 31 → readySnap.bits[m / readySnap.sps]? = some false) ∧
      (∀ m, m ≤ 31 → ({ readySnap with bits := List.replicate 8 true }).bits[m / 4]? = some true) := by decide

/-- Both clauses on FS. -/
theorem witness_fs_usable : FsUsable ready.cfg ∧ ¬ FsUsable { ready.cfg with written := 0xCFC } :=
  ⟨⟨by decide, by decide, 1000 * 2 ^ 1074, by decide +kernel, by decide +kernel⟩, fun h => absurd h.1 (by decide)⟩

/-- Each cause of cadence_errors. -/
theorem witness_cadence_causes :
    ({ ready.cfg with written := 0x0FC }).cadenceErrors = [.configError, .configError] ∧
      ({ ready.cfg with periodHi := 0xBFF00000 }).cadenceErrors = [.invalidCadence] ∧
      ({ ready.cfg with periodHi := 0x7FE00000 }).cadenceErrors = [.cadenceRange] := by decide +kernel

/-- The period exists, with a usable FS, with an unwritten one, and with a product past the range. -/
theorem witness_start_to_start :
    ready.cfg.resolvePeriod = .ok ready.cfg.period ∧ ready.cfg.fsOk = true ∧
      ({ ready.cfg with written := 0xCFC }).resolvePeriod = .ok ready.cfg.period ∧
      ({ ready.cfg with written := 0xCFC }).fsOk = false ∧
      ({ ready.cfg with periodHi := 0x7FE00000 }).startToStart (f64 (reg64 0x7FE00000 0x9999999A)) =
        .error .cadenceRange := by decide +kernel

theorem witness_resolve : ready.cfg.cadenceErrors = [] ∧ State.reset.cfg.cadenceErrors ≠ [] := by decide +kernel

/-- A press, an empty press and a refused BUILD. -/
theorem witness_build :
    ready.status.busy = false ∧ ready.buildErrors = [] ∧
      ({ ready with cfg := { ready.cfg with packets := 0 } } : State).buildErrors = [] ∧
      State.reset.status.busy = false ∧ State.reset.buildErrors ≠ [] := by decide +kernel

theorem readySnap_ok : SnapshotOk Build.reference readySnap :=
  ⟨by decide, by decide, by decide, by decide, by decide, by decide, by decide, by decide⟩

/-- Before the first sample, within the first packet, and before the last sample. -/
theorem witness_streaming : Streaming (running 0 0) ∧ Streaming (running 1 0x1999999A) ∧ Streaming (running 99 4) :=
  ⟨⟨by decide, rfl, rfl, readySnap_ok, by decide, fun i h _ => by
      change 0 % 50 = i + 1 at h; omega⟩,
    ⟨by decide, rfl, rfl, readySnap_ok, by decide, fun i h _ => by
      change 1 % 50 = i + 1 at h
      obtain rfl : i = 0 := by omega
      decide⟩,
    ⟨by decide, rfl, rfl, readySnap_ok, by decide, fun i h h' => by
      change 99 % 50 = i + 1 at h; change i + 1 < 32 at h'; omega⟩⟩

theorem witness_engine_step :
    (facing .accept (running 0 0)).inputs = .accept :: [] ∧ Streaming (facing .accept (running 0 0)) :=
  ⟨rfl, ⟨by decide, rfl, rfl, readySnap_ok, by decide, fun i h _ => by
    change 0 % 50 = i + 1 at h; omega⟩⟩

/-- A host access, a BUILD that is refused, and acceptances, with samples left after them. -/
theorem witness_interleaving :
    (∀ e ∈ [.accept, .host 0 (cmdAccess 4), .host 0 (cmdAccess 6), .accept], Event.quiet e = true) ∧
      (running 0 0).engine.k.toNat + acceptCount [.accept, .host 0 (cmdAccess 4), .host 0 (cmdAccess 6), .accept] <
        (running 0 0).engine.snap.total := by decide

theorem witness_isolated :
    (running 1 0).status.busy = true ∧ Instr.wellFormed .build = true ∧ Instr.build ≠ .srst := by decide

theorem witness_accept_idle :
    (facing .accept ready).status.busy = false ∧ (facing .accept ready).inputs = .accept :: [] := by decide

/-- Two causes together with ERR_CODE 0, one that is raised alone, and a record that is not clear. -/
theorem witness_raise :
    (∀ e ∈ [Cause.invalidHex, .configError], e.code.toNat ∈ codePriority) ∧
      (∀ e' ∈ [Cause.invalidHex, .configError],
        codePriority.idxOf Cause.configError.code.toNat ≤ codePriority.idxOf e'.code.toNat) ∧
      ([Cause.busyReject] = [Cause.busyReject] ∧ Cause.busyReject.code.toNat ∉ codePriority) ∧
      ready.errCode = 0 ∧ ({ ready with errFlags := 1, errCode := 1 } : State).errCode ≠ 0 := by decide

/-- An event that clears nothing, from a state with an error recorded, and the step it takes. -/
theorem witness_sticky :
    (Event.host 0 (cmdAccess 4)).clears = false ∧ (Event.host 0 (cmdAccess 6)).resets = false ∧
      ∃ t, step (facing (.host 0 (cmdAccess 4)) { running 1 0 with errFlags := 1, errCode := 1 }) = .next t ∧
        t.errFlags = 0x081 ∧ t.errCode = 1 :=
  ⟨by decide, by decide, _, rfl, by decide, by decide⟩

/-- The invariant during a press. -/
theorem witness_invariant_busy : Inv (facing .accept (running 1 0x1999999A)) :=
  ⟨by decide, ⟨by decide +kernel, by decide, by decide⟩, ⟨by decide, by decide⟩,
    ⟨by decide, by decide, by decide, by decide⟩,
    ⟨by decide, by decide, fun _ => readySnap_ok, fun _ => by decide, fun _ => by decide, fun _ => rfl⟩,
    (fun h => nomatch h)⟩

/-- The invariant before a BUILD that starts a press. -/
theorem witness_invariant_idle :
    Inv ready ∧ ready.status.busy = false ∧ ready.resetPin = false ∧ ready.buildErrors = [] :=
  ⟨⟨by decide, ⟨by decide +kernel, by decide, by decide⟩, ⟨by decide, by decide⟩,
    ⟨by decide, by decide, by decide, by decide⟩,
    ⟨by decide, by decide, (fun h => nomatch h), (fun h => nomatch h), (fun h => nomatch h), (fun h => nomatch h)⟩,
    (fun h => nomatch h)⟩, by decide, by decide, by decide +kernel⟩

/-- The invariant under the reset input. -/
theorem witness_invariant_held : HeldInReset (assertReset ready) ∧ (assertReset ready).resetPin = true :=
  ⟨fun _ => rfl, rfl⟩

/-- Every VALID bit set: `ready` after its BUILD. -/
theorem witness_valid_bits :
    ∃ t, exec .build ready = .next t ∧ ValidBitsOk t ∧ t.status.resolveValid = true ∧
      t.status.tuneValid = true ∧ t.status.metaValid = true :=
  ⟨_, rfl,
    ⟨fun _ => ⟨ready.cfg.period, 50, by decide +kernel, by decide +kernel, by decide +kernel, by decide +kernel⟩,
      fun _ => ⟨by decide +kernel, by decide +kernel, by decide +kernel⟩,
      fun _ => ⟨ready.cfg.period, 50, by decide +kernel, by decide +kernel, by decide +kernel, by decide +kernel,
        by decide +kernel, by decide +kernel, by decide +kernel⟩⟩,
    by decide +kernel, by decide +kernel, by decide +kernel⟩

/-- Two idle states with another cell past n and another snapshot. -/
theorem witness_same_but_unread :
    SameButUnread ready { ready with
      payload := { ready.payload with nib := ready.payload.nib.set 7 0xF }
      engine := { ready.engine with snap := readySnap } } :=
  ⟨rfl, by decide +kernel, by decide, (fun h => nomatch h)⟩

/-- Both clauses of RNE64: the threshold itself, and the largest finite value. -/
theorem witness_rne64 :
    (0 : Nat) < 1 ∧ (2 ^ 1024 - 2 ^ 970 : ℚ) ≤ ((2 ^ 970 * 18014398509481983 : Nat) : ℚ) / (1 : Nat) ∧
      ¬ (2 ^ 1024 - 2 ^ 970 : ℚ) ≤ ((2 ^ 970 * 18014398509481982 : Nat) : ℚ) / (1 : Nat) := by
  have h : (2 ^ 1024 : ℚ) = 2 ^ 970 * 18014398509481984 := by
    rw [show 1024 = 970 + 54 from rfl, pow_add, show (2 : ℚ) ^ 54 = 18014398509481984 by norm_num1]
  have h0 : (0 : ℚ) < 2 ^ 970 := by positivity
  refine ⟨by decide, ?_, ?_⟩ <;> rw [h] <;> simp only [Nat.cast_mul, Nat.cast_pow, Nat.cast_ofNat, Nat.cast_one] <;>
    generalize (2 : ℚ) ^ 970 = x at h0 ⊢ <;> linarith

/-- Every kind of encoding, and a datum that is no NaN. -/
theorem witness_encodings :
    f64 0x7FF0000000000000 = .inf false ∧ f64 0x7FF0000000000001 = .nan ∧ f64 0x8000000000000001 = .fin true 1 ∧
      f64 0x3FF0000000000000 = f64One ∧ f64 0x3FF0000000000000 ≠ .nan := by decide +kernel
end

section
/-! SUPPORT. What a full-word host access does: the register map at the offsets it lists and at the reserved ones
(10_state.md R30, R60), the identity registers (R31, R32), and a configuration write field by field (R47). -/

namespace Sys2Proof.Machine

/-! ## A full-word access of an aligned offset -/

theorem exec_readOp {o : Offset} (h : o.toNat % 4 = 0) (s : State) :
    exec (readOp o) s = .next { s with resp := .read (readOffset s o) } := by
  simp [readOp, exec, execRd, readShapeOk, alignedOffset, h, respond]

theorem exec_writeOp {o : Offset} (h : o.toNat % 4 = 0) (v : Word) (s : State) :
    exec (writeOp o v) s = writeOffset o v s := by
  simp [writeOp, exec, execWr, writeShapeOk, readShapeOk, alignedOffset, h]

theorem readOffset_of_regAt {o : Offset} {r : Reg} (h : regAt o = some r) (s : State) :
    readOffset s o = readReg s r := by simp [readOffset, h]

theorem readOffset_of_regAt_none {o : Offset} (h : regAt o = none) (s : State) : readOffset s o = 0 := by
  simp [readOffset, h]

theorem writeOffset_of_regAt_none {o : Offset} (h : regAt o = none) (v : Word) (s : State) :
    writeOffset o v s = .next { s with resp := .written } := by simp [writeOffset, h, completed, respond]

theorem writeOffset_of_regAt_cfg {o : Offset} {x : CfgReg} (h : regAt o = some (.cfg x)) (v : Word) (s : State) :
    writeOffset o v s = completed (writeCfg x v s) := by simp [writeOffset, h]

/-! ## The register map -/

/-- No entry of the map stands at one of the four reserved offsets inside it or from 0x0CC on. -/
theorem regMap_not_reserved :
    ∀ e ∈ regMap, e.1 ≠ 0x00C ∧ e.1 ≠ 0x02C ∧ e.1 ≠ 0x07C ∧ e.1 ≠ 0x0AC ∧ e.1 < 0x0CC := by decide

theorem regAt_of_reservedOffset {o : Offset} (h : reservedOffset o) : regAt o = none := by
  obtain ⟨-, hr⟩ := h
  refine List.lookup_eq_none_iff.2 fun e he => ?_
  have := regMap_not_reserved e he
  rw [bne_iff_ne]
  omega

theorem regAt_cfgOffset (x : CfgReg) : regAt (cfgOffset x) = some (.cfg x) := by cases x <;> rfl

theorem cfgOffset_aligned (x : CfgReg) : (cfgOffset x).toNat % 4 = 0 := by cases x <;> rfl

/-- A host write to a configuration register is `writeCfg`. -/
theorem exec_writeOp_cfgOffset (x : CfgReg) (v : Word) (s : State) :
    exec (writeOp (cfgOffset x) v) s = .next (respond .written (writeCfg x v s)) := by
  rw [exec_writeOp (cfgOffset_aligned x), writeOffset_of_regAt_cfg (regAt_cfgOffset x), completed]

/-! ## PARAMS -/

theorem toNat_append_eq_add {m n : Nat} (x : BitVec m) (y : BitVec n) :
    (x ++ y).toNat = x.toNat * 2 ^ n + y.toNat := by
  rw [BitVec.toNat_append, ← Nat.shiftLeft_add_eq_or_of_lt y.isLt, Nat.shiftLeft_eq]

/-- The fields of PARAMS as one sum (10_state.md R32); N, at the top, needs no bound. -/
theorem paramsWord_eq {b : Build} (hL : b.L < 2 ^ 8) (hP : b.P < 2 ^ 8) :
    paramsWord b = BitVec.ofNat 32 (b.N * 2 ^ 16 + b.L * 2 ^ 8 + b.P) := by
  apply BitVec.eq_of_toNat_eq
  simp only [paramsWord, toNat_append_eq_add, BitVec.toNat_ofNat]
  omega

/-- A legal build's table and phase widths fit their fields of PARAMS (00_scope.md R6). -/
theorem widths_lt_of_legal {b : Build} (h : b.legal = true) : b.L < 2 ^ 8 ∧ b.P < 2 ^ 8 := by
  simp only [Build.legal, Bool.and_eq_true, decide_eq_true_eq] at h
  omega

theorem readOffset_params {s : State} (h : s.build.legal = true) :
    readOffset s 0x008 = BitVec.ofNat 32 (s.build.N * 2 ^ 16 + s.build.L * 2 ^ 8 + s.build.P) := by
  obtain ⟨hL, hP⟩ := widths_lt_of_legal h
  rw [readOffset_of_regAt (r := .params) rfl, readReg, paramsWord_eq hL hP]

/-! ## The error record in the spec's numbers -/

theorem flagsAfter_singleton (f : BitVec 9) (e : Cause) :
    flagsAfter f [e] = f ||| BitVec.ofNat 9 (2 ^ (e.code.toNat - 1)) := by
  rw [flagsAfter_cons, flagsAfter_nil]
  cases e <;> rfl

theorem codeAfter_singleton (c : BitVec 4) (e : Cause) : codeAfter c [e] = if c = 0 then e.code else c := by
  split
  · next h => rw [h, codeAfter_zero_singleton]
  · next h => exact codeAfter_of_ne_zero h _

theorem raise_eq_recordError (e : Cause) (s : State) : raise e s = recordError e.code.toNat s := by
  simp [raise, raiseAll, recordError, flagsAfter_singleton, codeAfter_singleton]

/-! ## The configuration registers -/

/-- The two stored bits of CADENCE_SEL as a mask of the written word (10_state.md R39). -/
theorem setWidth_two_setWidth (v : Word) : (v.setWidth 2).setWidth 32 = v &&& 3 := by
  have hmask : v.toNat &&& (3 : Word).toNat = v.toNat % 2 ^ 2 := Nat.and_two_pow_sub_one_eq_mod v.toNat 2
  apply BitVec.eq_of_toNat_eq
  rw [BitVec.toNat_and, hmask, BitVec.toNat_setWidth, BitVec.toNat_setWidth]
  omega

theorem read_store_self (c : CfgRegs) (x : CfgReg) (v : Word) :
    (c.store x v).read x = if x = .cadenceSel then v &&& 3 else v := by
  cases x
  case cadenceSel => exact setWidth_two_setWidth v
  all_goals rfl

/-- Each register has a field of its own in `CfgRegs`. -/
theorem read_store_of_ne {x y : CfgReg} (h : y ≠ x) (c : CfgRegs) (v : Word) :
    (c.store x v).read y = c.read y := by
  cases x <;> cases y <;> trivial

theorem read_with_written (c : CfgRegs) (w : BitVec 14) (y : CfgReg) :
    ({ c with written := w } : CfgRegs).read y = c.read y := by cases y <;> rfl

@[simp] theorem read_markWritten (c : CfgRegs) (x y : CfgReg) : (c.markWritten x).read y = c.read y := by
  unfold CfgRegs.markWritten
  split
  · exact read_with_written c _ y
  · rfl

theorem getLsbD_markWritten (c : CfgRegs) (x : CfgReg) {b : Nat} (hb : b < 14) :
    (c.markWritten x).written.getLsbD b = (c.written.getLsbD b || writtenBit x == some b) := by
  unfold CfgRegs.markWritten
  split
  next n hbit =>
    rw [hbit, ← BitVec.twoPow_eq, BitVec.getLsbD_or, BitVec.getLsbD_twoPow, Option.some_beq_some]
    by_cases hn : n = b
    · simp [hn, hb]
    · simp [hn]
  next hbit => simp [hbit]

/-- The CFG_WRITTEN bits are in the order of the offsets from FS_LO on (10_state.md R38). -/
theorem writtenBit_beq_some (x : CfgReg) (b : Nat) :
    (writtenBit x == some b) = (x != .cadenceSel && ((cfgOffset x).toNat - 0x030) / 4 == b) := by
  cases x <;> rfl

theorem feedsCadence_eq (x : CfgReg) : feedsCadence x =
    ([.fsLo, .fsHi, .cadenceSel, .ppsLo, .ppsHi, .periodLo, .periodHi, .defpLo, .defpHi] : List CfgReg).contains x := by
  cases x <;> rfl

theorem feedsTuning_eq (x : CfgReg) :
    feedsTuning x = ([.fsLo, .fsHi, .f0Lo, .f0Hi, .f1Lo, .f1Hi] : List CfgReg).contains x := by
  cases x <;> rfl

end Sys2Proof.Machine
end

section
/-! The statements about register access at fixed offsets and about configuration writes. -/

open Sys2Proof Sys2Proof.Machine

/-- Settles O10, by the map's entries for ID and VERSION. -/
theorem identityReadsConstant : Obligations.IdentityReadsConstant := by
  intro s
  have hid : readOffset s 0x000 = 0x46534B31 := readOffset_of_regAt (r := .id) rfl s
  have hversion : readOffset s 0x004 = 0x00010000 := readOffset_of_regAt (r := .version) rfl s
  constructor
  · rw [exec_readOp rfl, hid]
  · rw [exec_readOp rfl, hversion]

/-- Settles O11: in a legal build the parameters fit their fields, and the reference build is legal. -/
theorem paramsReadsBuildParameters : Obligations.ParamsReadsBuildParameters := by
  constructor
  · intro s hlegal
    rw [exec_readOp rfl, readOffset_params hlegal]
  · intro s href
    have hlegal : s.build.legal = true := by rw [href]; rfl
    have hword : readOffset s 0x008 = 0x01000C20 := by
      rw [readOffset_params hlegal, href]
      rfl
    rw [exec_readOp rfl, hword]

/-- Settles O14: a reserved offset has no entry in the map. -/
theorem reservedOffsetsReadZeroIgnoreWrites : Obligations.ReservedOffsetsReadZeroIgnoreWrites := by
  intro s o v hreserved
  have hnone := regAt_of_reservedOffset hreserved
  obtain ⟨haligned, -⟩ := hreserved
  constructor
  · rw [exec_readOp haligned, readOffset_of_regAt_none hnone]
  · rw [exec_writeOp haligned, writeOffset_of_regAt_none hnone]

/-- Settles O16: `writeCfg` on its two paths, and on the accepted one the values and CFG_WRITTEN bits of the new
configuration. -/
theorem configurationWrite : Obligations.ConfigurationWrite := by
  intro s x v
  rw [exec_writeOp_cfgOffset]
  split
  next hbusy =>
    rw [writeCfg_busy hbusy, raise_eq_recordError]
    rfl
  next hidle =>
    rw [writeCfg_idle (Bool.eq_false_of_not_eq_true hidle), ← feedsCadence_eq, ← feedsTuning_eq]
    refine ⟨(s.cfg.store x v).markWritten x, rfl, ?_, fun y hne => ?_, fun b hb => ?_⟩
    · rw [read_markWritten, read_store_self]
    · rw [read_markWritten, read_store_of_ne hne]
    · rw [getLsbD_markWritten _ _ hb, store_written, writtenBit_beq_some]

end

section
/-! SUPPORT. A command word as its three fields, and the opcode map (30_encoding.md R101) as the decoder reads it, the
encoder writes it and the rows of match and mask list it. -/

namespace Sys2Proof

/-! ## The fields of a command word (30_encoding.md R100) -/

@[simp] theorem cmdRsvd_append (r : BitVec 16) (a o : Byte) : cmdRsvd (r ++ a ++ o) = r := by
  rw [cmdRsvd, BitVec.extractLsb'_append_eq_of_le (by decide)]
  exact BitVec.extractLsb'_append_eq_left

@[simp] theorem cmdArg_append (r : BitVec 16) (a o : Byte) : cmdArg (r ++ a ++ o) = a := by
  rw [cmdArg, BitVec.extractLsb'_append_eq_of_le (by decide)]
  exact BitVec.extractLsb'_append_eq_right

@[simp] theorem cmdOpcode_append (r : BitVec 16) (a o : Byte) : cmdOpcode (r ++ a ++ o) = o :=
  BitVec.extractLsb'_append_eq_right

/-- The three fields cover the word. -/
theorem cmdWord_eq_append (w : Word) : w = cmdRsvd w ++ cmdArg w ++ cmdOpcode w := by
  have hhigh : cmdRsvd w ++ cmdArg w = w.extractLsb' 8 24 :=
    BitVec.extractLsb'_append_extractLsb'_eq_extractLsb' rfl
  rw [hhigh, cmdOpcode]
  exact (BitVec.extractLsb'_append_extractLsb' (w := 24) (len := 8)).symm

/-! ## The decoder and the encoder (30_encoding.md R101, R102) -/

/-- A command without an argument is encoded as its opcode. -/
theorem encodeCmd_of_plainCommand {op : Byte} {c : Command} (h : plainCommand op = some c) :
    encodeCmd c = (0 : BitVec 16) ++ (0 : Byte) ++ op := by
  unfold plainCommand at h
  split_ifs at h with h0 h1 h3 h4 h5 h6 h7
  all_goals
    subst op
    cases h
    rfl

/-- What a word that decodes looks like, field by field. -/
theorem decodeCmd_ok_cases {w : Word} {c : Command} (h : decodeCmd w = .ok c) :
    cmdRsvd w = 0 ∧
      ((cmdOpcode w = 0x02 ∧ c = .pushc (cmdArg w)) ∨ (plainCommand (cmdOpcode w) = some c ∧ cmdArg w = 0)) := by
  unfold decodeCmd at h
  split at h
  · cases h
  next hrsvd =>
    refine ⟨not_not.mp hrsvd, ?_⟩
    split at h
    next hop =>
      cases h
      exact .inl ⟨hop, rfl⟩
    · split at h
      next hplain =>
        split at h
        next harg =>
          cases h
          exact .inr ⟨hplain, harg⟩
        · cases h
      · cases h

theorem encodeCmd_of_decodeCmd {w : Word} {c : Command} (h : decodeCmd w = .ok c) : w = encodeCmd c := by
  obtain ⟨hrsvd, ⟨hop, rfl⟩ | ⟨hplain, harg⟩⟩ := decodeCmd_ok_cases h
  · calc w = cmdRsvd w ++ cmdArg w ++ cmdOpcode w := cmdWord_eq_append w
      _ = encodeCmd (.pushc (cmdArg w)) := by rw [hrsvd, hop, encodeCmd]
  · calc w = cmdRsvd w ++ cmdArg w ++ cmdOpcode w := cmdWord_eq_append w
      _ = encodeCmd c := by rw [hrsvd, harg, encodeCmd_of_plainCommand hplain]

theorem decodeCmd_encodeCmd (c : Command) : decodeCmd (encodeCmd c) = .ok c := by
  cases c
  case pushc => simp [encodeCmd, decodeCmd]
  all_goals rfl

theorem decodeCmd_eq_ok_iff {w : Word} {c : Command} : decodeCmd w = .ok c ↔ w = encodeCmd c := by
  constructor
  · exact encodeCmd_of_decodeCmd
  · rintro rfl
    exact decodeCmd_encodeCmd c

/-! ## The rows of match and mask (30_encoding.md R101) -/

/-- The mask of a row without an argument keeps the whole word. -/
theorem and_fullMask (w : Word) : w &&& 0xFFFFFFFF = w := BitVec.and_allOnes

/-- The mask of PUSHC's row clears ARG and keeps the other two fields. -/
theorem and_pushcMask (w : Word) : w &&& 0xFFFF00FF = cmdRsvd w ++ (0 : Byte) ++ cmdOpcode w := by
  have hmask : (0xFFFF00FF : Word) = BitVec.allOnes 16 ++ (0 : Byte) ++ BitVec.allOnes 8 := rfl
  calc w &&& 0xFFFF00FF
      = (cmdRsvd w ++ cmdArg w ++ cmdOpcode w) &&& (BitVec.allOnes 16 ++ (0 : Byte) ++ BitVec.allOnes 8) := by
        rw [← cmdWord_eq_append, hmask]
    _ = cmdRsvd w ++ (0 : Byte) ++ cmdOpcode w := by
        rw [BitVec.and_append, BitVec.and_append, BitVec.and_allOnes, BitVec.and_allOnes]
        exact congrArg (cmdRsvd w ++ · ++ cmdOpcode w) BitVec.and_zero

/-- A word matches PUSHC's row exactly when it is PUSHC of its own ARG. -/
theorem matches_pushc_iff (w : Word) : w &&& 0xFFFF00FF = 0x00000002 ↔ ∃ c, w = encodeCmd (.pushc c) := by
  rw [and_pushcMask]
  constructor
  · intro h
    have hrsvd : cmdRsvd w = 0 := (cmdRsvd_append _ _ _).symm.trans (congrArg cmdRsvd h)
    have hop : cmdOpcode w = 0x02 := (cmdOpcode_append _ _ _).symm.trans (congrArg cmdOpcode h)
    exact ⟨cmdArg w, by rw [encodeCmd, ← hrsvd, ← hop, ← cmdWord_eq_append]⟩
  · rintro ⟨c, rfl⟩
    rw [encodeCmd, cmdRsvd_append, cmdOpcode_append]
    rfl

theorem legalCmdWord_iff (w : Word) : legalCmdWord w = true ↔ ∃ c, w = encodeCmd c := by
  simp only [legalCmdWord, cmdRows, List.any_cons, List.any_nil, Bool.or_false, Bool.or_eq_true, beq_iff_eq,
    and_fullMask, matches_pushc_iff]
  constructor
  · rintro (h | h | ⟨c, h⟩ | h | h | h | h | h)
    exacts [⟨.nop, h⟩, ⟨.clrpay, h⟩, ⟨.pushc c, h⟩, ⟨.tune, h⟩, ⟨.build, h⟩, ⟨.resolve, h⟩, ⟨.clrst, h⟩, ⟨.srst, h⟩]
  · rintro ⟨c, rfl⟩
    cases c
    case pushc c => exact .inr (.inr (.inl ⟨c, rfl⟩))
    all_goals simp [encodeCmd]

end Sys2Proof
end

section
/-! The statement about the command decoder. -/

open Sys2Proof

/-- Settles O2: the rows, the encoder and the decoder name the same words. -/
theorem commandDecoderMatchesOpcodeMap : Obligations.CommandDecoderMatchesOpcodeMap := by
  intro w
  constructor
  · simp only [legalCmdWord_iff, decodeCmd_eq_ok_iff]
  · exact fun c => decodeCmd_eq_ok_iff

end

section
/-! SUPPORT. The bit decoder by character code (40_bit_decoder.md R131, R132, R134): what one character does to the
payload buffer, and what CLRPAY and PUSHC do to the block. -/

namespace Sys2Proof.Machine

/-! ## Character classes (40_bit_decoder.md R131, R132) -/

theorem isWsCode_iff (c : Byte) : isWsCode c = true ↔ (9 ≤ c.toNat ∧ c.toNat ≤ 13) ∨ c.toNat = 32 := by
  simp [isWsCode]

theorem isHexCode_iff (c : Byte) : isHexCode c = true ↔
    (48 ≤ c.toNat ∧ c.toNat ≤ 57) ∨ (65 ≤ c.toNat ∧ c.toNat ≤ 70) ∨ (97 ≤ c.toNat ∧ c.toNat ≤ 102) := by
  simp [isHexCode, or_assoc]

theorem isWsCode_eq_false_of_isHexCode {c : Byte} (h : isHexCode c = true) : isWsCode c = false := by
  rw [isHexCode_iff] at h
  rw [Bool.eq_false_iff, Ne, isWsCode_iff]
  omega

/-- Lower-casing adds 0x20 to the codes of 'A' to 'F'. -/
theorem toNat_lowerHex (c : Byte) :
    (lowerHex c).toNat = if 65 ≤ c.toNat ∧ c.toNat ≤ 70 then c.toNat + 32 else c.toNat := by
  have hupper : 0x41 ≤ c ∧ c ≤ 0x46 ↔ 65 ≤ c.toNat ∧ c.toNat ≤ 70 := .rfl
  rw [lowerHex, if_congr hupper rfl rfl]
  split
  · bv_omega
  · rfl

/-- The classes of a lower-cased code, by number. -/
theorem charClass_eq (c : Byte) : charClass c =
    if isWsCode c then .ws
    else if (48 ≤ c.toNat ∧ c.toNat ≤ 57) ∨ (97 ≤ c.toNat ∧ c.toNat ≤ 102) then .hex
    else .bad := by
  have hws : (c = 0x09 ∨ c = 0x0A ∨ c = 0x0B ∨ c = 0x0C ∨ c = 0x0D ∨ c = 0x20) ↔ isWsCode c = true := by
    rw [isWsCode_iff]
    bv_omega
  simp only [charClass, hws]
  rfl

/-- The class of a character as it comes, of either case. -/
theorem charClass_lowerHex (c : Byte) :
    charClass (lowerHex c) = if isWsCode c then .ws else if isHexCode c then .hex else .bad := by
  have hlower := toNat_lowerHex c
  have hws : isWsCode (lowerHex c) = true ↔ isWsCode c = true := by
    rw [isWsCode_iff, isWsCode_iff]
    grind
  have hhex : (48 ≤ (lowerHex c).toNat ∧ (lowerHex c).toNat ≤ 57) ∨
      (97 ≤ (lowerHex c).toNat ∧ (lowerHex c).toNat ≤ 102) ↔ isHexCode c = true := by
    rw [isHexCode_iff]
    grind
  simp only [charClass_eq, hws, hhex]

theorem hexCodeValue_lt {c : Byte} (h : isHexCode c = true) : hexCodeValue c < 16 := by
  rw [isHexCode_iff] at h
  unfold hexCodeValue
  split_ifs <;> omega

/-- The value of a HEX character as it comes, of either case. -/
theorem nibbleOf_lowerHex {c : Byte} (h : isHexCode c = true) :
    nibbleOf (lowerHex c) = BitVec.ofNat 4 (hexCodeValue c) := by
  rw [isHexCode_iff] at h
  have hlower := toNat_lowerHex c
  have hdigit : lowerHex c ≤ 0x39 ↔ c.toNat ≤ 57 := by
    change (lowerHex c).toNat ≤ 57 ↔ _
    grind
  rw [nibbleOf, hexCodeValue, if_congr hdigit rfl rfl]
  split_ifs at hlower ⊢ <;> bv_omega

/-! ## One character on the payload buffer (40_bit_decoder.md R134) -/

section
variable {cap : Nat} {p : Payload} {c : Byte}

theorem feed_ws_body (hws : isWsCode c = true) (hbody : p.phase = .body) :
    p.feed cap c = ({ p with phase := .trail }, []) := by
  simp [Payload.feed, charClass_lowerHex, hws, hbody]

theorem feed_ws_of_ne_body (hws : isWsCode c = true) (hbody : p.phase ≠ .body) : p.feed cap c = (p, []) := by
  simp [Payload.feed, charClass_lowerHex, hws, hbody]

theorem feed_digit_trail (hhex : isHexCode c = true) (htrail : p.phase = .trail) :
    p.feed cap c = ({ p with badHex := true }, [.invalidHex]) := by
  simp [Payload.feed, charClass_lowerHex, isWsCode_eq_false_of_isHexCode hhex, hhex, htrail]

theorem feed_digit_full (hhex : isHexCode c = true) (htrail : p.phase ≠ .trail) (hfull : p.n = cap) :
    p.feed cap c = ({ p with overflow := true }, [.payloadOverflow]) := by
  simp [Payload.feed, charClass_lowerHex, isWsCode_eq_false_of_isHexCode hhex, hhex, htrail, hfull]

theorem feed_digit_room (hhex : isHexCode c = true) (htrail : p.phase ≠ .trail) (hroom : p.n ≠ cap) :
    p.feed cap c = (p.push (BitVec.ofNat 4 (hexCodeValue c)), []) := by
  simp [Payload.feed, charClass_lowerHex, isWsCode_eq_false_of_isHexCode hhex, hhex, htrail, hroom,
    nibbleOf_lowerHex hhex]

theorem feed_bad (hws : isWsCode c = false) (hhex : isHexCode c = false) :
    p.feed cap c = ({ p with badHex := true }, [.invalidHex]) := by
  simp [Payload.feed, charClass_lowerHex, hws, hhex]

end

/-! ## CLRPAY and PUSHC on the block -/

theorem exec_clrpay_idle {s : State} (h : s.status.busy = false) :
    exec .clrpay s = .next (respond .written (clearPayload s)) := unlessBusy_idle h clearPayload

theorem exec_pushc_busy {s : State} (h : s.status.busy = true) (c : Byte) :
    exec (.pushc c) s = .next (respond .written (raise .busyReject s)) := unlessBusy_busy h (pushChar c)

theorem exec_pushc_idle {s : State} (h : s.status.busy = false) (c : Byte) :
    exec (.pushc c) s = .next (respond .written (pushChar c s)) := unlessBusy_idle h (pushChar c)

/-- A character that raises nothing changes META_VALID and the buffer. -/
theorem exec_pushc_of_feed_quiet {s : State} {c : Byte} {p : Payload} (h : s.status.busy = false)
    (hfeed : s.payload.feed s.build.N c = (p, [])) :
    exec (.pushc c) s =
      .next { s with status := { s.status with metaValid := false }, resp := .written, payload := p } := by
  rw [exec_pushc_idle h, pushChar, hfeed, raiseAll_nil]
  rfl

/-- A character that raises a cause changes the error record as well. -/
theorem exec_pushc_of_feed_error {s : State} {c : Byte} {p : Payload} {e : Cause} {code : Nat}
    (h : s.status.busy = false) (hfeed : s.payload.feed s.build.N c = (p, [e])) (hcode : e.code.toNat = code) :
    exec (.pushc c) s = .next (recordError code
      { s with status := { s.status with metaValid := false }, resp := .written, payload := p }) := by
  rw [exec_pushc_idle h, pushChar, hfeed, ← raise, raise_eq_recordError, hcode]
  rfl

/-- PUSHC's word in numbers (30_encoding.md R107). -/
theorem encodeCmd_pushc (c : Byte) : encodeCmd (.pushc c) = BitVec.ofNat 32 (256 * c.toNat + 2) := by
  apply BitVec.eq_of_toNat_eq
  have hopcode : (0x02 : Byte).toNat = 2 := rfl
  have hrsvd : (0 : BitVec 16).toNat = 0 := rfl
  rw [encodeCmd, toNat_append_eq_add, toNat_append_eq_add, BitVec.toNat_ofNat, hopcode, hrsvd]
  omega

end Sys2Proof.Machine
end

section
/-! The statement about one character. -/

open Sys2Proof Sys2Proof.Machine

/-- Settles O22, by the class of the character and, for a digit, the phase and the room left. -/
theorem pushcFeedsOneCharacter : Obligations.PushcFeedsOneCharacter := by
  intro s c
  refine ⟨decodeCmd_eq_ok_iff.2 (encodeCmd_pushc c).symm, ?_⟩
  intro quiet
  split
  next hbusy =>
    rw [exec_pushc_busy hbusy, raise_eq_recordError]
    rfl
  next hbusy =>
    have hidle := Bool.eq_false_of_not_eq_true hbusy
    split
    next hws =>
      split
      next hbody => exact exec_pushc_of_feed_quiet hidle (feed_ws_body hws hbody)
      next hbody => exact exec_pushc_of_feed_quiet hidle (feed_ws_of_ne_body hws hbody)
    next hws =>
      split
      next hhex =>
        split
        next htrail => exact exec_pushc_of_feed_error hidle (feed_digit_trail hhex htrail) rfl
        next htrail =>
          split
          next hfull => exact exec_pushc_of_feed_error hidle (feed_digit_full hhex htrail hfull) rfl
          next hroom => exact exec_pushc_of_feed_quiet hidle (feed_digit_room hhex htrail hroom)
      next hhex =>
        exact exec_pushc_of_feed_error hidle
          (feed_bad (Bool.eq_false_of_not_eq_true hws) (Bool.eq_false_of_not_eq_true hhex)) rfl

end

section
/-! SUPPORT. The texts the decoder accepts (40_bit_decoder.md R136): the language from each decoder phase, and a run of
characters through the payload buffer. -/

namespace Sys2Proof.Machine

/-! ## The payload buffer's invariant -/

/-- The buffer as CLRPAY and reset leave it (40_bit_decoder.md R133): its N cells hold anything. -/
structure Payload.Cleared (cap : Nat) (p : Payload) : Prop where
  cells : p.nib.length = cap
  n : p.n = 0
  phase : p.phase = .lead
  badHex : p.badHex = false

theorem clear_cleared {cap : Nat} {p : Payload} (hcells : p.nib.length = cap) : p.clear.Cleared cap :=
  ⟨hcells, rfl, rfl, rfl⟩

theorem Payload.Cleared.payloadOk {cap : Nat} {p : Payload} (h : p.Cleared cap) : PayloadOk cap p where
  cells := h.cells
  count := h.n ▸ Nat.zero_le cap
  lead := iff_of_true h.phase h.n

theorem Payload.Cleared.digits_eq_nil {cap : Nat} {p : Payload} (h : p.Cleared cap) : p.digits = [] := by
  rw [Payload.digits, h.n, List.take_zero]

/-- Every character keeps the invariant; white space moves only BODY to TRAIL, and a digit stored ends LEAD. -/
theorem feed_payloadOk {cap : Nat} {p : Payload} (h : PayloadOk cap p) (c : Byte) :
    PayloadOk cap (p.feed cap c).1 := by
  obtain ⟨hcells, hcount, hlead⟩ := h
  obtain hf | ⟨hbody, hf⟩ | hf | ⟨-, hf⟩ | ⟨hroom, hf⟩ := feed_cases cap p c <;> rw [hf]
  · exact ⟨hcells, hcount, hlead⟩
  · have hn : p.n ≠ 0 := fun hn => by simp [hlead.2 hn] at hbody
    exact ⟨hcells, hcount, iff_of_false (by simp) hn⟩
  · exact ⟨hcells, hcount, hlead⟩
  · exact ⟨hcells, hcount, hlead⟩
  · refine ⟨?_, ?_, iff_of_false (by simp [Payload.push]) (by simp [Payload.push])⟩
    · rw [Payload.push, List.length_set, hcells]
    · exact Nat.lt_of_le_of_ne hcount hroom

/-- A full buffer has left LEAD, as N is at least 1. -/
theorem phase_eq_body_of_full {cap : Nat} {p : Payload} (h : PayloadOk cap p) (hcap : 0 < cap) (hfull : p.n = cap)
    (htrail : p.phase ≠ .trail) : p.phase = .body := by
  cases hphase : p.phase
  case lead =>
    have hn := h.lead.1 hphase
    omega
  case body => rfl
  case trail => exact absurd hphase htrail

theorem length_digits {cap : Nat} {p : Payload} (h : PayloadOk cap p) : p.digits.length = p.n := by
  rw [Payload.digits, List.length_take, h.cells, Nat.min_eq_left h.count]

theorem digits_push {cap : Nat} {p : Payload} (h : PayloadOk cap p) (hroom : p.n ≠ cap) (d : Nibble) :
    (p.push d).digits = p.digits ++ [d] := by
  have hlt : p.n < p.nib.length := h.cells ▸ Nat.lt_of_le_of_ne h.count hroom
  simp [Payload.digits, Payload.push, List.take_add_one, List.take_set_of_le, hlt]

/-! ## The language from each phase -/

/-- The text is a run of characters of one class and then a text of Q. -/
def RunThen (inRun : Byte → Bool) (Q : List Byte → Prop) (cs : List Byte) : Prop :=
  ∃ u v, cs = u ++ v ∧ (∀ c ∈ u, inRun c) ∧ Q v

theorem RunThen.of_rest {inRun : Byte → Bool} {Q : List Byte → Prop} {cs : List Byte} (h : Q cs) :
    RunThen inRun Q cs := ⟨[], cs, rfl, by simp, h⟩

/-- The first character belongs to the run or the run is empty. -/
theorem runThen_cons {inRun : Byte → Bool} {Q : List Byte → Prop} {c : Byte} {cs : List Byte} :
    RunThen inRun Q (c :: cs) ↔ inRun c = true ∧ RunThen inRun Q cs ∨ Q (c :: cs) := by
  constructor
  · rintro ⟨u, v, huv, hu, hv⟩
    cases u with
    | nil => exact .inr (huv ▸ hv)
    | cons d u =>
      obtain ⟨rfl, rfl⟩ := List.cons.inj huv
      rw [List.forall_mem_cons] at hu
      exact .inl ⟨hu.1, u, v, rfl, hu.2, hv⟩
  · rintro (⟨hc, u, v, rfl, hu, hv⟩ | hQ)
    · exact ⟨c :: u, v, rfl, List.forall_mem_cons.2 ⟨hc, hu⟩, hv⟩
    · exact .of_rest hQ

/-- The texts that raise no INVALID_HEX from TRAIL on: W2. -/
def TrailText (cs : List Byte) : Prop := ∀ c ∈ cs, isWsCode c = true

/-- The texts that raise no INVALID_HEX from a phase on: W1 ++ H ++ W2 from LEAD, H ++ W2 from BODY. -/
def DecPhase.Accepts : DecPhase → List Byte → Prop
  | .lead => RunThen isWsCode (RunThen isHexCode TrailText)
  | .body => RunThen isHexCode TrailText
  | .trail => TrailText

theorem accepts_lead_iff (cs : List Byte) : DecPhase.Accepts .lead cs ↔ PayloadText cs := by
  constructor
  · rintro ⟨w1, _, rfl, hw1, h, w2, rfl, hh, hw2⟩
    exact ⟨w1, h, w2, (List.append_assoc ..).symm, hw1, hh, hw2⟩
  · rintro ⟨w1, h, w2, rfl, hw1, hh, hw2⟩
    exact ⟨w1, h ++ w2, List.append_assoc .., hw1, h, w2, rfl, hh, hw2⟩

theorem accepts_of_trailText {cs : List Byte} (h : TrailText cs) (ph : DecPhase) : ph.Accepts cs := by
  cases ph
  case trail => exact h
  case body => exact .of_rest h
  case lead => exact .of_rest (.of_rest h)

theorem accepts_nil (ph : DecPhase) : ph.Accepts [] := accepts_of_trailText (List.forall_mem_nil _) ph

section
variable {ph : DecPhase} {c : Byte} {cs : List Byte}

theorem accepts_trail_cons :
    DecPhase.Accepts .trail (c :: cs) ↔ isWsCode c = true ∧ DecPhase.Accepts .trail cs := List.forall_mem_cons

theorem accepts_body_cons : DecPhase.Accepts .body (c :: cs) ↔
    isHexCode c = true ∧ DecPhase.Accepts .body cs ∨ DecPhase.Accepts .trail (c :: cs) := runThen_cons

theorem accepts_lead_cons : DecPhase.Accepts .lead (c :: cs) ↔
    isWsCode c = true ∧ DecPhase.Accepts .lead cs ∨ DecPhase.Accepts .body (c :: cs) := runThen_cons

theorem accepts_body_cons_ws (hws : isWsCode c = true) (hhex : isHexCode c = false) :
    DecPhase.Accepts .body (c :: cs) ↔ DecPhase.Accepts .trail cs := by
  simp [accepts_body_cons, accepts_trail_cons, hws, hhex]

theorem accepts_cons_ws (hws : isWsCode c = true) (hhex : isHexCode c = false) (hbody : ph ≠ .body) :
    ph.Accepts (c :: cs) ↔ ph.Accepts cs := by
  cases ph
  case body => exact absurd rfl hbody
  case trail => simp [accepts_trail_cons, hws]
  case lead =>
    rw [accepts_lead_cons, accepts_body_cons_ws hws hhex, and_iff_right hws]
    exact or_iff_left_of_imp fun h => accepts_of_trailText h .lead

theorem accepts_cons_digit (hws : isWsCode c = false) (hhex : isHexCode c = true) :
    ph.Accepts (c :: cs) ↔ ph ≠ .trail ∧ DecPhase.Accepts .body cs := by
  cases ph <;> simp [accepts_lead_cons, accepts_body_cons, accepts_trail_cons, hws, hhex]

theorem not_accepts_cons_bad (hws : isWsCode c = false) (hhex : isHexCode c = false) : ¬ ph.Accepts (c :: cs) := by
  cases ph <;> simp [accepts_lead_cons, accepts_body_cons, accepts_trail_cons, hws, hhex]

end

/-! ## A run of characters through the buffer -/

/-- The buffer after a list of characters. -/
def Payload.feedAll (cap : Nat) (p : Payload) : List Byte → Payload
  | [] => p
  | c :: cs => (p.feed cap c).1.feedAll cap cs

section
variable {cap : Nat} {p : Payload}

theorem feedAll_payloadOk (h : PayloadOk cap p) (cs : List Byte) : PayloadOk cap (p.feedAll cap cs) := by
  induction cs generalizing p with
  | nil => exact h
  | cons c cs ih => exact ih (feed_payloadOk h c)

/-- One character of an accepted text leaves a phase that accepts the rest; one that cannot begin an accepted text
sets bad_hex. -/
theorem feed_accepts_iff (h : PayloadOk cap p) (hcap : 0 < cap) (c : Byte) (cs : List Byte) :
    (p.feed cap c).1.badHex = false ∧ (p.feed cap c).1.phase.Accepts cs ↔
      p.badHex = false ∧ p.phase.Accepts (c :: cs) := by
  cases hhex : isHexCode c
  case true =>
    rw [accepts_cons_digit (isWsCode_eq_false_of_isHexCode hhex) hhex]
    by_cases htrail : p.phase = .trail
    · simp [feed_digit_trail hhex htrail, htrail]
    by_cases hfull : p.n = cap
    · simp [feed_digit_full hhex htrail hfull, phase_eq_body_of_full h hcap hfull htrail]
    · simp [feed_digit_room hhex htrail hfull, Payload.push, htrail]
  case false =>
    cases hws : isWsCode c
    case true =>
      by_cases hbody : p.phase = .body
      · simp [feed_ws_body hws hbody, hbody, accepts_body_cons_ws hws hhex]
      · simp [feed_ws_of_ne_body hws hbody, accepts_cons_ws hws hhex hbody]
    case false => simp [feed_bad hws hhex, not_accepts_cons_bad hws hhex]

/-- No INVALID_HEX so far and none in the text, exactly when the phase accepts the text. -/
theorem feedAll_badHex_iff (h : PayloadOk cap p) (hcap : 0 < cap) (cs : List Byte) :
    (p.feedAll cap cs).badHex = false ↔ p.badHex = false ∧ p.phase.Accepts cs := by
  induction cs generalizing p with
  | nil => simp [Payload.feedAll, accepts_nil]
  | cons c cs ih => rw [Payload.feedAll, ih (feed_payloadOk h c), feed_accepts_iff h hcap]

/-- A character that leaves no error was fed to a buffer with none, and it was stored if it is a digit. -/
theorem feed_clean (h : PayloadOk cap p) (c : Byte) (hbad : (p.feed cap c).1.badHex = false)
    (hover : (p.feed cap c).1.overflow = false) :
    p.badHex = false ∧ p.overflow = false ∧
      (p.feed cap c).1.digits.map BitVec.toNat =
        p.digits.map BitVec.toNat ++ ([c].filter isHexCode).map hexCodeValue := by
  cases hhex : isHexCode c
  case true =>
    by_cases htrail : p.phase = .trail
    · simp [feed_digit_trail hhex htrail] at hbad
    by_cases hfull : p.n = cap
    · simp [feed_digit_full hhex htrail hfull] at hover
    · rw [feed_digit_room hhex htrail hfull] at hbad hover ⊢
      exact ⟨hbad, hover, by simp [digits_push h hfull, hhex, Nat.mod_eq_of_lt (hexCodeValue_lt hhex)]⟩
  case false =>
    cases hws : isWsCode c
    case true =>
      by_cases hbody : p.phase = .body
      · rw [feed_ws_body hws hbody] at hbad hover ⊢
        exact ⟨hbad, hover, by simp [Payload.digits, hhex]⟩
      · rw [feed_ws_of_ne_body hws hbody] at hbad hover ⊢
        exact ⟨hbad, hover, by simp [hhex]⟩
    case false => simp [feed_bad hws hhex] at hbad

/-- A text that leaves no error has all its digits stored, in their order. -/
theorem feedAll_clean (h : PayloadOk cap p) (cs : List Byte) (hbad : (p.feedAll cap cs).badHex = false)
    (hover : (p.feedAll cap cs).overflow = false) :
    p.badHex = false ∧ p.overflow = false ∧
      (p.feedAll cap cs).digits.map BitVec.toNat =
        p.digits.map BitVec.toNat ++ (cs.filter isHexCode).map hexCodeValue := by
  induction cs generalizing p with
  | nil => exact ⟨hbad, hover, (List.append_nil _).symm⟩
  | cons c cs ih =>
    obtain ⟨hbad', hover', hrest⟩ := ih (feed_payloadOk h c) hbad hover
    obtain ⟨hbad'', hover'', hfirst⟩ := feed_clean h c hbad' hover'
    refine ⟨hbad'', hover'', ?_⟩
    rw [Payload.feedAll, hrest, hfirst, List.append_assoc, ← List.map_append, ← List.filter_append,
      List.singleton_append]

end

/-! ## A run of PUSHC -/

theorem execAll_cons {i : Instr} {s t : State} (h : exec i s = .next t) (is : List Instr) :
    execAll (i :: is) s = execAll is t := by
  simp [execAll, h]

theorem execAll_pushc {s : State} (h : s.status.busy = false) (cs : List Byte) :
    ∃ t, execAll (cs.map .pushc) s = .next t ∧ t.payload = s.payload.feedAll s.build.N cs := by
  induction cs generalizing s with
  | nil => exact ⟨s, rfl, rfl⟩
  | cons c cs ih =>
    obtain ⟨t, hrun, hpayload⟩ := ih (s := respond .written (pushChar c s)) h
    exact ⟨t, (execAll_cons (exec_pushc_idle h c) _).trans hrun, hpayload⟩

/-- Both ways to begin a text lead to an idle block of the same build with a cleared buffer. -/
theorem execAll_start {s : State} {start : List Instr} (hidle : s.status.busy = false)
    (hcells : s.payload.nib.length = s.build.N)
    (hstart : start = [.clrpay] ∨ start = [] ∧ s.payload.n = 0 ∧ s.payload.phase = .lead ∧
      s.payload.badHex = false ∧ s.payload.overflow = false) (is : List Instr) :
    ∃ u, execAll (start ++ is) s = execAll is u ∧ u.status.busy = false ∧ u.build = s.build ∧
      u.payload.Cleared s.build.N := by
  obtain rfl | ⟨rfl, hn, hphase, hbad, -⟩ := hstart
  · exact ⟨_, execAll_cons (exec_clrpay_idle hidle) is, hidle, rfl, clear_cleared hcells⟩
  · exact ⟨s, rfl, hidle, rfl, hcells, hn, hphase, hbad⟩

theorem capacity_pos_of_legal {b : Build} (h : b.legal = true) : 0 < b.N := by
  simp only [Build.legal, Bool.and_eq_true, decide_eq_true_eq] at h
  omega

end Sys2Proof.Machine
end

section
/-! The statement about a text. -/

open Sys2Proof Sys2Proof.Machine

/-- Settles O23: a PUSHC run feeds the buffer, LEAD accepts exactly the payload texts, and a text that leaves no error
has its digits stored. -/
theorem payloadTextLanguage : Obligations.PayloadTextLanguage := by
  intro s start cs hidle hlegal hcells hstart
  obtain ⟨u, hbegin, huidle, hubuild, hcleared⟩ := execAll_start hidle hcells hstart (cs.map .pushc)
  obtain ⟨t, hrun, hpayload⟩ := execAll_pushc huidle cs
  rw [hubuild] at hpayload
  have hok := hcleared.payloadOk
  refine ⟨t, hbegin.trans hrun, ?_, fun hbad hover => ?_⟩
  · rw [hpayload, feedAll_badHex_iff hok (capacity_pos_of_legal hlegal), hcleared.phase, accepts_lead_iff,
      and_iff_right hcleared.badHex]
  · rw [hpayload] at hbad hover
    obtain ⟨-, -, hdigits⟩ := feedAll_clean hok cs hbad hover
    rw [hcleared.digits_eq_nil, List.map_nil, List.nil_append, ← hpayload] at hdigits
    have hcount := length_digits (feedAll_payloadOk hok cs)
    rw [← hpayload] at hcount
    refine ⟨?_, hdigits⟩
    calc t.payload.n = (t.payload.digits.map BitVec.toNat).length := by rw [List.length_map, hcount]
      _ = (cs.filter isHexCode).length := by rw [hdigits, List.length_map]

end

section
/-! SUPPORT. The accumulator of 41_modulator.md R158 as a sum of tuning words (R159). -/

namespace Sys2Proof.Machine

theorem sampleFtw_of_bit {p : Snapshot} {i : Nat} {v : Bool} (h : p.bits[i / p.sps]? = some v) :
    sampleFtw p i = (p.ftw v).toNat := by
  rw [sampleFtw, List.getD_eq_getElem?_getD, h, Option.getD_some]

theorem phaseAt_eq_sum (b : Build) (p : Snapshot) (i : Nat) :
    phaseAt b p i = (∑ m ∈ Finset.range (i + 1), sampleFtw p m) % 2 ^ b.P := by
  induction i with
  | zero => rw [phaseAt, zero_add, Finset.sum_range_one]
  | succ i ih => rw [phaseAt, ih, Nat.mod_add_mod, ← Finset.sum_range_succ]

/-- While every bit so far is v, each sample adds the same tuning word. -/
theorem phaseAt_of_bits_const (b : Build) {p : Snapshot} {i : Nat} {v : Bool}
    (h : ∀ m, m ≤ i → p.bits[m / p.sps]? = some v) :
    phaseAt b p i = ((i + 1) * (p.ftw v).toNat) % 2 ^ b.P := by
  have hsum : ∑ m ∈ Finset.range (i + 1), sampleFtw p m = (i + 1) * (p.ftw v).toNat :=
    calc ∑ m ∈ Finset.range (i + 1), sampleFtw p m
        = (Finset.range (i + 1)).card * (p.ftw v).toNat := Finset.sum_const_nat fun m hm =>
          sampleFtw_of_bit (h m (Finset.mem_range_succ_iff.1 hm))
      _ = (i + 1) * (p.ftw v).toNat := by rw [Finset.card_range]
  rw [phaseAt_eq_sum, hsum]

end Sys2Proof.Machine
end

section
/-! The statement about the accumulator. -/

open Sys2Proof Sys2Proof.Machine

/-- Settles O31: the recurrence sums the tuning words, and a constant bit makes the sum a product. -/
theorem phaseClosedForm : Obligations.PhaseClosedForm := by
  intro b p i
  exact ⟨phaseAt_eq_sum b p i, phaseAt_of_bits_const b, phaseAt_of_bits_const b⟩

end

section
/-! SUPPORT. When the rounded quotient is infinite (00_scope.md R10): the nearest integer against a half-integer, the
overflow threshold of a format of any fraction width, and that threshold for f64_div. -/

namespace Sys2Proof.Machine

/-! ## The nearest integer -/

section
variable {a b m : Nat}

theorem le_rneDiv (hb : 0 < b) (h : m * b ≤ a) : m ≤ rneDiv a b := by
  have hm : m ≤ a / b := (Nat.le_div_iff_mul_le hb).2 h
  unfold rneDiv
  split_ifs <;> omega

theorem rneDiv_le (hb : 0 < b) (h : a ≤ m * b) : rneDiv a b ≤ m := by
  have hdm := Nat.div_add_mod a b
  obtain hlt | rfl := (Nat.div_le_of_le_mul (h.trans_eq (mul_comm m b))).lt_or_eq
  · unfold rneDiv
    split_ifs <;> omega
  · have hexact : a % b = 0 := by rw [mul_comm] at h; omega
    rw [rneDiv, hexact, if_pos (by omega)]

/-- A tie at m + 1/2 goes up, away from the odd m. -/
theorem lt_rneDiv_iff_of_odd (hb : 0 < b) (hm : m % 2 = 1) : m < rneDiv a b ↔ (2 * m + 1) * b ≤ 2 * a := by
  obtain hlt | heq | hgt := lt_trichotomy (a / b) m
  · have ha : a < m * b := (Nat.div_lt_iff_lt_mul hb).1 hlt
    exact iff_of_false (rneDiv_le hb ha.le).not_gt (by linarith)
  · have ha : b * m + a % b = a := heq ▸ Nat.div_add_mod a b
    have hhalf : (2 * m + 1) * b ≤ 2 * a ↔ b ≤ 2 * (a % b) := by
      constructor <;> intro h <;> linarith
    rw [hhalf, rneDiv, heq]
    split_ifs <;> omega
  · have ha : (m + 1) * b ≤ a := (Nat.le_div_iff_mul_le hb).1 hgt
    exact iff_of_true (le_rneDiv hb ha) (by linarith)

end

/-! ## The overflow threshold -/

section
variable {p a d : Nat}

theorem lt_two_pow_mul_quantum (hd : 0 < d) : a < 2 ^ (p + 1) * (d * 2 ^ quantumExp p (a / d)) := by
  have hlog : a / d < 2 ^ (p + 1 + quantumExp p (a / d)) :=
    Nat.lt_log2_self.trans_le (Nat.pow_le_pow_right two_pos (by unfold quantumExp; omega))
  calc a < 2 ^ (p + 1 + quantumExp p (a / d)) * d := (Nat.div_lt_iff_lt_mul hd).1 hlog
    _ = 2 ^ (p + 1) * (d * 2 ^ quantumExp p (a / d)) := by rw [pow_add]; ring

theorem two_pow_mul_quantum_le (hd : 0 < d) (h : 0 < quantumExp p (a / d)) :
    2 ^ p * (d * 2 ^ quantumExp p (a / d)) ≤ a := by
  unfold quantumExp at h ⊢
  have hne : a / d ≠ 0 := by
    intro h0
    simp [h0] at h
  calc 2 ^ p * (d * 2 ^ (Nat.log2 (a / d) - p)) = 2 ^ (p + (Nat.log2 (a / d) - p)) * d := by rw [pow_add]; ring
    _ = 2 ^ Nat.log2 (a / d) * d := by rw [Nat.add_sub_cancel' (by omega)]
    _ ≤ a := (Nat.le_div_iff_mul_le hd).1 (Nat.log2_self_le hne)

end

/-- Rounding reaches 2^(p+1) · 2^k exactly from half a quantum 2^k below it on: the largest fraction is odd, so the tie
goes up. -/
theorem two_pow_le_roundUnits_iff {d : Nat} (hd : 0 < d) (p e n k : Nat) :
    2 ^ (p + 1) * 2 ^ k ≤ roundUnits p e n d ↔ (2 * (2 ^ (p + 1) - 1) + 1) * (d * 2 ^ k) ≤ 2 * (n * 2 ^ e) := by
  have hpow : 2 ^ (p + 1) = 2 * 2 ^ p := pow_succ' 2 p
  have hp : 0 < 2 ^ p := by positivity
  have hbelow := lt_two_pow_mul_quantum (p := p) (a := n * 2 ^ e) hd
  have habove := two_pow_mul_quantum_le (p := p) (a := n * 2 ^ e) hd
  unfold roundUnits
  generalize quantumExp p (n * 2 ^ e / d) = q at hbelow habove ⊢
  obtain hlt | rfl | hgt := lt_trichotomy q k
  · have hquantum : 2 * 2 ^ q ≤ 2 ^ k := by
      rw [← pow_succ']; exact Nat.pow_le_pow_right two_pos hlt
    refine iff_of_false (not_le.2 ?_) (not_le.2 ?_)
    · calc rneDiv (n * 2 ^ e) (d * 2 ^ q) * 2 ^ q
          ≤ 2 ^ (p + 1) * 2 ^ q := Nat.mul_le_mul_right _ (rneDiv_le (by positivity) hbelow.le)
        _ < 2 ^ (p + 1) * 2 ^ k := Nat.mul_lt_mul_of_pos_left (Nat.pow_lt_pow_right one_lt_two hlt) (by positivity)
    · calc 2 * (n * 2 ^ e) < 2 * (2 ^ (p + 1) * (d * 2 ^ q)) := by omega
        _ = 2 ^ (p + 1) * (d * (2 * 2 ^ q)) := by ring
        _ ≤ (2 * (2 ^ (p + 1) - 1) + 1) * (d * 2 ^ k) :=
          Nat.mul_le_mul (by omega) (Nat.mul_le_mul_left d hquantum)
  · rw [Nat.mul_le_mul_right_iff (by positivity), ← lt_rneDiv_iff_of_odd (by positivity) (by omega)]
    omega
  · have hquantum : 2 * 2 ^ k ≤ 2 ^ q := by
      rw [← pow_succ']; exact Nat.pow_le_pow_right two_pos hgt
    have hfraction := habove (by omega)
    refine iff_of_true ?_ ?_
    · calc 2 ^ (p + 1) * 2 ^ k = 2 ^ p * (2 * 2 ^ k) := by rw [hpow]; ring
        _ ≤ rneDiv (n * 2 ^ e) (d * 2 ^ q) * 2 ^ q :=
          Nat.mul_le_mul (le_rneDiv (by positivity) hfraction) hquantum
    · calc (2 * (2 ^ (p + 1) - 1) + 1) * (d * 2 ^ k)
          ≤ (2 * 2 ^ (p + 1)) * (d * 2 ^ k) := Nat.mul_le_mul_right _ (by omega)
        _ = 2 * (2 ^ p * (d * (2 * 2 ^ k))) := by rw [hpow]; ring
        _ ≤ 2 * (2 ^ p * (d * 2 ^ q)) := by gcongr
        _ ≤ 2 * (n * 2 ^ e) := Nat.mul_le_mul_left 2 hfraction

/-- The same threshold as the real n / d: it lies half a quantum, 2^j, below 2^(p+2+j). -/
theorem two_pow_le_roundUnits_iff_le_div {d : Nat} (hd : 0 < d) (p e n j : Nat) :
    2 ^ (p + j + e + 2) ≤ roundUnits p e n d ↔ (2 ^ (p + 2 + j) - 2 ^ j : ℚ) ≤ (n : ℚ) / d := by
  have hpow : 2 ^ (p + 1) = 2 * 2 ^ p := pow_succ' 2 p
  have hp : 0 < 2 ^ p := by positivity
  have hunits : 2 ^ (p + j + e + 2) = 2 ^ (p + 1) * 2 ^ (j + e + 1) := by rw [← pow_add]; congr 1; omega
  have hsig : 2 * (2 ^ (p + 1) - 1) + 1 = 2 ^ (p + 2) - 1 := by rw [pow_succ 2 (p + 1)]; omega
  have hscale : (2 ^ (p + 2) - 1) * (d * 2 ^ (j + e + 1)) = 2 * 2 ^ e * ((2 ^ (p + 2) - 1) * 2 ^ j * d) := by ring
  have hreal : (2 ^ (p + 2 + j) - 2 ^ j : ℚ) = ((2 ^ (p + 2) - 1) * 2 ^ j : Nat) := by
    push_cast [Nat.one_le_two_pow]
    ring
  rw [hunits, two_pow_le_roundUnits_iff hd, hsig, hscale, show 2 * (n * 2 ^ e) = 2 * 2 ^ e * n by ring,
    Nat.mul_le_mul_left_iff (by positivity), hreal, le_div_iff₀ (by exact_mod_cast hd)]
  exact_mod_cast Iff.rfl

/-- R10's threshold for binary64, said of the exact real. -/
theorem infUnits_le_roundUnits_iff {d : Nat} (hd : 0 < d) (n : Nat) :
    infUnits ≤ roundUnits 52 1074 n d ↔ (2 ^ 1024 - 2 ^ 970 : ℚ) ≤ (n : ℚ) / d := by
  rw [infUnits, show 2098 = 52 + 970 + 1074 + 2 from rfl]
  exact two_pow_le_roundUnits_iff_le_div hd 52 1074 n 970

/-! ## The quotient -/

theorem isFinite_iff (x : F64) : x.isFinite = true ↔ ∃ neg m, x = .fin neg m := by
  cases x <;> simp [F64.isFinite]

theorem isFinite_and_isPos_iff (x : F64) :
    x.isFinite = true ∧ x.isPos = true ↔ ∃ m, x = .fin false m ∧ 0 < m := by
  cases x <;> simp [F64.isFinite, F64.isPos]

theorem isFinite_withZeroSign (neg : Bool) (x : F64) : (x.withZeroSign neg).isFinite = x.isFinite := by
  cases x with
  | fin s mag =>
    by_cases hmag : mag = 0
    · rw [hmag, withZeroSign_zero]; rfl
    · rw [withZeroSign_of_ne_zero hmag]
  | inf s => rfl
  | nan => rfl

theorem rne64_isFinite_iff (neg : Bool) {d : Nat} (hd : 0 < d) (n : Nat) :
    (rne64 neg n d).isFinite = true ↔ (n : ℚ) / d < 2 ^ 1024 - 2 ^ 970 := by
  rw [← not_le, ← infUnits_le_roundUnits_iff hd]
  obtain ⟨rfl, h⟩ | ⟨-, hinf, h⟩ | ⟨-, hfin, h⟩ := rne64_cases neg n d
  · have hpos : (0 : ℚ) < 2 ^ 1024 - 2 ^ 970 := sub_pos.2 (pow_lt_pow_right₀ one_lt_two (by decide))
    rw [h, infUnits_le_roundUnits_iff hd, Nat.cast_zero, zero_div, not_le]
    exact iff_of_true rfl hpos
  · simp [h, hinf, F64.isFinite]
  · simp [h, hfin, F64.isFinite]

theorem f64Div_isFinite_iff (sa sb : Bool) (ma : Nat) {mb : Nat} (hb : 0 < mb) :
    (f64Div (.fin sa ma) (.fin sb mb)).isFinite = true ↔ (ma : ℚ) / mb < 2 ^ 1024 - 2 ^ 970 := by
  rw [f64Div, if_neg hb.ne', isFinite_withZeroSign, rne64_isFinite_iff _ hb]

/-! ## tune_ok -/

theorem pairWritten_iff (c : CfgRegs) (lo : Nat) :
    c.pairWritten lo = true ↔ c.written.getLsbD lo = true ∧ c.written.getLsbD (lo + 1) = true := by
  rw [CfgRegs.pairWritten, Bool.and_eq_true]

theorem fsOk_iff (c : CfgRegs) : c.fsOk = true ↔ c.fsWritten = true ∧ ∃ m, c.fs = .fin false m ∧ 0 < m := by
  rw [CfgRegs.fsOk, Bool.and_eq_true, Bool.and_eq_true, and_assoc, isFinite_and_isPos_iff]

/-- FS, F0 and F1 are written when the six lowest CFG_WRITTEN bits are set (10_state.md R38). -/
theorem tuning_operands_written_iff (c : CfgRegs) :
    (c.fsWritten = true ∧ c.f0Written = true ∧ c.f1Written = true) ↔
      ∀ b, b < 6 → c.written.getLsbD b = true := by
  simp only [CfgRegs.fsWritten, CfgRegs.f0Written, CfgRegs.f1Written, pairWritten_iff]
  constructor
  · rintro ⟨⟨h0, h1⟩, ⟨h2, h3⟩, h4, h5⟩ b hb
    interval_cases b <;> assumption
  · intro h
    exact ⟨⟨h 0 (by omega), h 1 (by omega)⟩, ⟨h 2 (by omega), h 3 (by omega)⟩, h 4 (by omega), h 5 (by omega)⟩

end Sys2Proof.Machine
end

section
/-! The statement about tune_ok. -/

open Sys2Proof Sys2Proof.Machine

/-- Settles O26: the registers' conditions one by one, and f64_div's threshold for each quotient. -/
theorem tuneOkConditions : Obligations.TuneOkConditions := by
  intro c
  rw [← tuning_operands_written_iff]
  simp only [CfgRegs.tuneOk, Bool.and_eq_true, fsOk_iff]
  constructor
  · rintro ⟨⟨⟨⟨⟨hwfs, mf, hfs, hmf⟩, hw0, h0⟩, hw1, h1⟩, hq0⟩, hq1⟩
    obtain ⟨n0, m0, h0⟩ := (isFinite_iff _).1 h0
    obtain ⟨n1, m1, h1⟩ := (isFinite_iff _).1 h1
    rw [h0, hfs, f64Div_isFinite_iff _ _ _ hmf] at hq0
    rw [h1, hfs, f64Div_isFinite_iff _ _ _ hmf] at hq1
    exact ⟨⟨hwfs, hw0, hw1⟩, mf, m0, m1, n0, n1, hfs, hmf, h0, h1, hq0, hq1⟩
  · rintro ⟨⟨hwfs, hw0, hw1⟩, mf, m0, m1, n0, n1, (hfs : c.fs = _), hmf, (h0 : c.f0 = _), (h1 : c.f1 = _), hq0, hq1⟩
    rw [hfs, h0, h1, f64Div_isFinite_iff _ _ _ hmf, f64Div_isFinite_iff _ _ _ hmf]
    exact ⟨⟨⟨⟨⟨hwfs, mf, rfl, hmf⟩, hw0, rfl⟩, hw1, rfl⟩, hq0⟩, hq1⟩

end

section
/-! SUPPORT. What the two error sets hold and when they are empty: cadence_errors (43_cadence.md R204) and build_errors
(42_framer.md R176), the framing arithmetic of R170 in the spec's numbers, and BUILD's way to the engine (R181). -/

namespace Sys2Proof.Machine

/-! ## cadence_errors -/

theorem cadenceSource_error {w : Bool} {v period : F64} {e : Cause} (h : cadenceSource w v period = .error e) :
    e = .configError ∨ e = .invalidCadence := by
  unfold cadenceSource at h
  split at h
  · cases h; exact .inl rfl
  · split at h
    · cases h; exact .inr rfl
    · cases h

theorem resolvePeriod_error {c : CfgRegs} {e : Cause} (h : c.resolvePeriod = .error e) :
    e = .configError ∨ e = .invalidCadence := by
  unfold CfgRegs.resolvePeriod at h
  split at h
  · exact cadenceSource_error h
  · split at h <;> exact cadenceSource_error h

/-- The three checks of R204, one by one. -/
theorem mem_cadenceErrors_iff {c : CfgRegs} {e : Cause} : e ∈ c.cadenceErrors ↔
    c.resolvePeriod = .error e ∨ (c.fsOk = false ∧ e = .configError) ∨
    (e = .cadenceRange ∧ ∃ period e', c.resolvePeriod = .ok period ∧ c.fsOk = true ∧
      c.startToStart period = .error e') := by
  unfold CfgRegs.cadenceErrors
  cases hfs : c.fsOk <;> cases hperiod : c.resolvePeriod with
  | error e' => simp [eq_comm]
  | ok p => cases hcount : c.startToStart p <;> simp [hcount]

/-- cadence_errors holds only the three causes of the configuration. -/
theorem mem_cadenceErrors {c : CfgRegs} {e : Cause} (h : e ∈ c.cadenceErrors) :
    e = .configError ∨ e = .invalidCadence ∨ e = .cadenceRange := by
  obtain hperiod | ⟨-, he⟩ | ⟨he, -⟩ := mem_cadenceErrors_iff.1 h
  · exact (resolvePeriod_error hperiod).imp_right .inl
  · exact .inl he
  · exact .inr (.inr he)

theorem cadence_eq_some_iff {c : CfgRegs} {period : F64} {n : Nat} :
    c.cadence = some (period, n) ↔ c.resolvePeriod = .ok period ∧ c.startToStart period = .ok n := by
  unfold CfgRegs.cadence
  split
  next hperiod => simp [hperiod]
  next p hperiod =>
    split
    next hcount =>
      refine iff_of_false (by simp) ?_
      rintro ⟨hp, hn⟩
      cases hperiod.symm.trans hp
      cases hcount.symm.trans hn
    next m hcount =>
      constructor
      · rintro ⟨⟩
        exact ⟨hperiod, hcount⟩
      · rintro ⟨hp, hn⟩
        cases hperiod.symm.trans hp
        cases hcount.symm.trans hn
        rfl

/-- With no error the period and the count both exist (43_cadence.md R204). -/
theorem cadence_of_cadenceErrors_eq_nil {c : CfgRegs} (h : c.cadenceErrors = []) :
    ∃ period n, c.cadence = some (period, n) := by
  have hnone : ∀ e, e ∉ c.cadenceErrors := List.eq_nil_iff_forall_not_mem.1 h
  cases hperiod : c.resolvePeriod with
  | error e => exact absurd (mem_cadenceErrors_iff.2 (.inl hperiod)) (hnone e)
  | ok p =>
    cases hcount : c.startToStart p with
    | error e =>
      cases hfs : c.fsOk
      · exact absurd (mem_cadenceErrors_iff.2 (.inr (.inl ⟨hfs, rfl⟩))) (hnone _)
      · exact absurd (mem_cadenceErrors_iff.2 (.inr (.inr ⟨rfl, p, e, hperiod, hfs, hcount⟩))) (hnone _)
    | ok n => exact ⟨p, n, cadence_eq_some_iff.2 ⟨hperiod, hcount⟩⟩

/-! ## The framing arithmetic -/

theorem pkt_eq (s : State) : s.pkt = 8 * ((s.payload.n + 1) / 2) * s.cfg.sps.toNat := rfl

/-- A packet and its gap take the longer of the packet and the start-to-start count. -/
theorem unitLen_eq_max (pkt n : Nat) : unitLen pkt n = max pkt n := by
  unfold unitLen gapLen
  omega

theorem gapLen_eq_max_sub (pkt n : Nat) : gapLen pkt n = max pkt n - pkt := by
  unfold gapLen
  omega

theorem total_eq (s : State) (n : Nat) : s.total n = s.cfg.packets.toNat * max s.pkt n := by
  rw [State.total, unitLen_eq_max]

/-! ## build_errors -/

/-- The checks of R176 other than LENGTH_RANGE, one by one. -/
theorem mem_inputErrors_iff {s : State} {e : Cause} : e ∈ s.inputErrors ↔
    (s.cfg.tuneOk = false ∧ e = .configError) ∨ e ∈ s.cfg.cadenceErrors ∨
    ((s.cfg.written.getLsbD 6 = false ∨ s.cfg.sps = 0) ∧ e = .configError) ∨
    (s.cfg.written.getLsbD 7 = false ∧ e = .configError) ∨
    (s.payload.badHex = true ∧ e = .invalidHex) ∨ (s.payload.overflow = true ∧ e = .payloadOverflow) := by
  simp [State.inputErrors, CfgRegs.spsWritten, CfgRegs.packetsWritten]

theorem mem_lengthErrors_iff {s : State} {e : Cause} : e ∈ s.lengthErrors ↔
    e = .lengthRange ∧ ∃ period n, s.cfg.cadence = some (period, n) ∧ 2 ^ 64 ≤ s.total n := by
  unfold State.lengthErrors
  split
  next period n hcadence =>
    rw [List.mem_ite_nil_right, List.mem_singleton, and_comm, hcadence]
    simp
  next hcadence => simp [hcadence]

/-- The other checks find only the causes of the configuration and of the payload. -/
theorem mem_inputErrors {s : State} {e : Cause} (h : e ∈ s.inputErrors) :
    e = .configError ∨ e = .invalidCadence ∨ e = .cadenceRange ∨ e = .invalidHex ∨ e = .payloadOverflow := by
  obtain ⟨-, he⟩ | hcadence | ⟨-, he⟩ | ⟨-, he⟩ | ⟨-, he⟩ | ⟨-, he⟩ := mem_inputErrors_iff.1 h
  · exact .inl he
  · exact (mem_cadenceErrors hcadence).imp_right (Or.imp_right .inl)
  · exact .inl he
  · exact .inl he
  · exact .inr (.inr (.inr (.inl he)))
  · exact .inr (.inr (.inr (.inr he)))

theorem lengthRange_not_mem_inputErrors (s : State) : .lengthRange ∉ s.inputErrors :=
  fun h => by simpa using mem_inputErrors h

theorem mem_buildErrors_of_ne_lengthRange {s : State} {e : Cause} (he : e ≠ .lengthRange) :
    e ∈ s.buildErrors ↔ e ∈ s.inputErrors := by
  unfold State.buildErrors
  split
  next hnil => simp [hnil, mem_lengthErrors_iff, he]
  next => rfl

theorem inputErrors_eq_nil_iff {s : State} :
    s.inputErrors = [] ↔ ∀ e, e ≠ .lengthRange → e ∉ s.buildErrors := by
  rw [List.eq_nil_iff_forall_not_mem]
  constructor
  · intro hnone e he
    rw [mem_buildErrors_of_ne_lengthRange he]
    exact hnone e
  · intro hnone e hmem
    have he : e ≠ .lengthRange := fun he => lengthRange_not_mem_inputErrors s (he ▸ hmem)
    exact hnone e he ((mem_buildErrors_of_ne_lengthRange he).2 hmem)

theorem lengthRange_mem_buildErrors_iff {s : State} : .lengthRange ∈ s.buildErrors ↔
    s.inputErrors = [] ∧ ∃ period n, s.cfg.cadence = some (period, n) ∧ 2 ^ 64 ≤ s.total n := by
  unfold State.buildErrors
  split
  next hnil => simp [hnil, mem_lengthErrors_iff]
  next hne => exact iff_of_false (lengthRange_not_mem_inputErrors s) fun h => hne h.1

/-- With no error BUILD has a period and a count to go on with. -/
theorem cadence_of_buildErrors_eq_nil {s : State} (h : s.buildErrors = []) :
    ∃ period n, s.cfg.cadence = some (period, n) := by
  have hinput : s.inputErrors = [] := inputErrors_eq_nil_iff.2 fun e _ => by simp [h]
  refine cadence_of_cadenceErrors_eq_nil (List.eq_nil_iff_forall_not_mem.2 fun e he => ?_)
  exact List.eq_nil_iff_forall_not_mem.1 hinput e (mem_inputErrors_iff.2 (.inr (.inl he)))

/-! ## BUILD on the block -/

theorem exec_build_idle {s : State} (h : s.status.busy = false) :
    exec .build s = .next (respond .written (build s)) := unlessBusy_idle h build

theorem build_of_cadence {s : State} {period : F64} {n : Nat} (herr : s.buildErrors = [])
    (hcadence : s.cfg.cadence = some (period, n)) : build s = buildPress period n (acceptBuild s) := by
  simp [build, herr, hcadence]

/-- From an idle block with DONE = 0: the empty press is done at once, any other press is BUSY with its snapshot
(42_framer.md R181, R185). -/
theorem startEngine_idle {s : State} (hbusy : s.status.busy = false) (hdone : s.status.done = false) (n : Nat) :
    startEngine n s = { s with
      status := { s.status with busy := decide (s.total n ≠ 0), done := decide (s.total n = 0) }
      engine := { k := 0, acc := 0, snap := if s.total n = 0 then s.engine.snap else s.snapshot n } } := by
  obtain ⟨htotal, hstart⟩ | ⟨htotal, hstart⟩ := startEngine_cases n s
  · simp [hstart, htotal, hbusy]
  · simp [hstart, htotal, hdone]

end Sys2Proof.Machine
end

section
/-! The statement about the causes BUILD finds. -/

open Sys2Proof Sys2Proof.Machine

/-- Settles O36: every cause but LENGTH_RANGE comes from its own check, and LENGTH_RANGE from the total when no other
cause is there. -/
theorem buildErrorCauses : Obligations.BuildErrorCauses := by
  intro s
  have hhex : .invalidHex ∉ s.cfg.cadenceErrors := fun h => by simpa using mem_cadenceErrors h
  have hoverflow : .payloadOverflow ∉ s.cfg.cadenceErrors := fun h => by simpa using mem_cadenceErrors h
  refine ⟨?config, ?cadence, ?range, ?hex, ?overflow, ?length, ?illegal, ?busy, ?bus⟩
  case length =>
    simp only [lengthRange_mem_buildErrors_iff, inputErrors_eq_nil_iff, cadence_eq_some_iff, total_eq, pkt_eq,
      and_assoc]
  all_goals rw [mem_buildErrors_of_ne_lengthRange (by decide)]
  case config => simp [mem_inputErrors_iff, or_assoc]
  case cadence => simp [mem_inputErrors_iff]
  case range => simp [mem_inputErrors_iff]
  case hex => simp [mem_inputErrors_iff, hhex]
  case overflow => simp [mem_inputErrors_iff, hoverflow]
  case illegal | busy | bus => exact fun h => by simpa using mem_inputErrors h

end

section
/-! The statement about BUILD's success path. -/

open Sys2Proof Sys2Proof.Machine

/-- Settles O37: with no error the period and the count exist, BUILD writes them and starts the engine from an idle
block, and the framing arithmetic is a maximum. -/
theorem buildStartsPress : Obligations.BuildStartsPress := by
  intro s hidle herr
  obtain ⟨period, n, hcadence⟩ := cadence_of_buildErrors_eq_nil herr
  obtain ⟨hperiod, hcount⟩ := cadence_eq_some_iff.1 hcadence
  refine ⟨period, n, hperiod, hcount, ?_⟩
  intro fs ftw0 ftw1 pkt unit total
  have hunit : unitLen pkt n = unit := unitLen_eq_max pkt n
  have hgap : gapLen pkt n = unit - pkt := gapLen_eq_max_sub pkt n
  have htotal : s.total n = total := total_eq s n
  rw [exec_build_idle hidle, build_of_cadence herr hcadence, buildPress, startEngine_idle, ← hgap, ← htotal, ← hunit]
  case hbusy => exact hidle
  case hdone => rfl
  rfl

end

section
/-! SUPPORT. The nearest integer, ties to even, as the model rounds (rint of 00_scope.md R10), the sign of a quotient
and of a product of data that are not negative, and the two functions of the cadence resolver (43_cadence.md R201,
R202). -/

namespace Sys2Proof.Machine

/-! ## The nearest integer, ties to even -/

theorem nearestEven_of_abs_lt {x : ℤ} {r : ℚ} (h : |(x : ℚ) - r| < 1 / 2) : NearestEven x r :=
  ⟨h.le, fun htie => absurd htie h.ne⟩

theorem NearestEven.neg {x : ℤ} {r : ℚ} (h : NearestEven x r) : NearestEven (-x) (-r) := by
  obtain ⟨hnear, heven⟩ := h
  have habs : |((-x : ℤ) : ℚ) - -r| = |(x : ℚ) - r| := by rw [Int.cast_neg, ← neg_sub', abs_neg]
  rw [NearestEven, habs, even_neg]
  exact ⟨hnear, heven⟩

/-- The remainder decides: below half the divisor the quotient is nearest, above it the next integer, and at half both
are as near and the even one is taken. -/
theorem nearestEven_rneDiv (a : Nat) {b : Nat} (hb : 0 < b) : NearestEven (rneDiv a b : ℤ) ((a : ℚ) / b) := by
  have hbq : (0 : ℚ) < b := Nat.cast_pos.2 hb
  have hsplit : (a : ℚ) / b = (a / b : Nat) + ((a % b : Nat) : ℚ) / b := by
    have hdivmod : (b : ℚ) * (a / b : Nat) + (a % b : Nat) = a := by exact_mod_cast Nat.div_add_mod a b
    rw [← hdivmod, add_div, mul_div_cancel_left₀ _ hbq.ne']
  obtain hbelow | hhalf | habove := lt_trichotomy (2 * (a % b)) b
  · have hfrac : ((a % b : Nat) : ℚ) / b < 1 / 2 := by
      rw [div_lt_div_iff₀ hbq two_pos]
      exact_mod_cast (by omega : a % b * 2 < 1 * b)
    have hfrac0 : (0 : ℚ) ≤ ((a % b : Nat) : ℚ) / b := by positivity
    rw [rneDiv, if_pos hbelow, hsplit]
    refine nearestEven_of_abs_lt (abs_lt.2 ?_)
    rw [Int.cast_natCast]
    constructor <;> linarith
  · have hfrac : ((a % b : Nat) : ℚ) / b = 1 / 2 := by
      rw [div_eq_div_iff hbq.ne' two_ne_zero]
      exact_mod_cast (by omega : a % b * 2 = 1 * b)
    rw [rneDiv, if_neg hhalf.not_lt, if_neg hhalf.not_gt, hsplit, hfrac]
    have heven : Even (a / b + a / b % 2) := Nat.even_iff.2 (by omega)
    have hround : ((a / b % 2 : Nat) : ℚ) ≤ 1 := Nat.cast_le_one.2 (by omega)
    have hround0 : (0 : ℚ) ≤ (a / b % 2 : Nat) := Nat.cast_nonneg _
    refine ⟨abs_le.2 ?_, fun _ => (Int.even_coe_nat _).2 heven⟩
    rw [Int.cast_natCast, Nat.cast_add]
    constructor <;> linarith
  · have hfrac : 1 / 2 < ((a % b : Nat) : ℚ) / b := by
      rw [div_lt_div_iff₀ two_pos hbq]
      exact_mod_cast (by omega : 1 * b < a % b * 2)
    have hfrac1 : ((a % b : Nat) : ℚ) / b < 1 := (div_lt_one hbq).2 (Nat.cast_lt.2 (Nat.mod_lt a hb))
    rw [rneDiv, if_neg habove.not_gt, if_pos habove, hsplit]
    refine nearestEven_of_abs_lt (abs_lt.2 ?_)
    rw [Int.cast_natCast, Nat.cast_succ]
    constructor <;> linarith

theorem nearestEven_rintScaled (p : Nat) (neg : Bool) (mag : Nat) :
    NearestEven (rintScaled p neg mag) (realOf neg mag * 2 ^ p) := by
  have hpos : NearestEven (rneDiv (mag * 2 ^ p) (2 ^ 1074) : ℤ) ((mag : ℚ) / 2 ^ 1074 * 2 ^ p) := by
    have h := nearestEven_rneDiv (mag * 2 ^ p) (Nat.two_pow_pos 1074)
    rw [Nat.cast_mul, mul_div_right_comm] at h
    simpa only [Nat.cast_pow, Nat.cast_ofNat] using h
  cases neg with
  | false => exact hpos
  | true =>
    have hneg := hpos.neg
    rwa [← neg_mul] at hneg

/-! ## Signs -/

/-- A binary64 datum whose sign bit is 0, and no NaN: what quotients and products of data greater than 0 are. -/
def F64.IsPlus (x : F64) : Prop := x = .inf false ∨ ∃ m, x = .fin false m

theorem isPlus_of_isPos {x : F64} (h : x.isPos = true) : x.IsPlus := by
  cases x with
  | fin neg m =>
    rw [F64.isPos, Bool.and_eq_true, Bool.not_eq_true'] at h
    exact .inr ⟨m, by rw [h.1]⟩
  | inf neg =>
    rw [F64.isPos, Bool.not_eq_true'] at h
    exact .inl (by rw [h])
  | nan => cases h

theorem isPlus_rne64_withZeroSign (n d : Nat) : ((rne64 false n d).withZeroSign false).IsPlus := by
  obtain ⟨-, h⟩ | ⟨-, -, h⟩ | ⟨hn, -, h⟩ := rne64_cases false n d
  · exact .inr ⟨0, by rw [h, withZeroSign_zero]⟩
  · exact .inl (by rw [h, withZeroSign_inf])
  · exact .inr ⟨_, by rw [rne64_withZeroSign false hn, h]⟩

theorem isPlus_f64Div_one {v : F64} (h : v.isPos = true) : (f64Div f64One v).IsPlus := by
  obtain rfl | ⟨m, rfl⟩ := isPlus_of_isPos h
  · exact .inr ⟨0, rfl⟩
  · have hm : m ≠ 0 := by rintro rfl; cases h
    rw [f64One, f64Div, if_neg hm]
    exact isPlus_rne64_withZeroSign _ m

theorem isPlus_f64Mul {x : F64} (h : x.IsPlus) {m : Nat} (hm : 0 < m) : (f64Mul x (.fin false m)).IsPlus := by
  obtain rfl | ⟨n, rfl⟩ := h
  · exact .inl (if_neg hm.ne')
  · exact isPlus_rne64_withZeroSign _ _

/-! ## resolve_period (43_cadence.md R201) -/

theorem cadenceSource_ok_iff {w : Bool} {v p period : F64} :
    cadenceSource w v p = .ok period ↔ w = true ∧ v.isPos = true ∧ p = period := by
  cases w <;> cases hv : v.isPos <;> simp [cadenceSource, hv]

theorem resolvePeriod_pps {c : CfgRegs} (h : c.cadenceSel.getLsbD 0 = true) :
    c.resolvePeriod = cadenceSource c.ppsWritten c.pps (f64Div f64One c.pps) := if_pos h

theorem resolvePeriod_period {c : CfgRegs} (hpps : ¬ c.cadenceSel.getLsbD 0 = true)
    (h : c.cadenceSel.getLsbD 1 = true) :
    c.resolvePeriod = cadenceSource c.periodWritten c.period c.period := (if_neg hpps).trans (if_pos h)

theorem resolvePeriod_default {c : CfgRegs} (hpps : ¬ c.cadenceSel.getLsbD 0 = true)
    (hperiod : ¬ c.cadenceSel.getLsbD 1 = true) :
    c.resolvePeriod = cadenceSource c.defpWritten c.defp c.defp := (if_neg hpps).trans (if_neg hperiod)

/-- Every source is checked to be greater than 0, so the sign of the period is +. -/
theorem isPlus_of_resolvePeriod {c : CfgRegs} {period : F64} (h : c.resolvePeriod = .ok period) : period.IsPlus := by
  by_cases hpps : c.cadenceSel.getLsbD 0 = true
  · obtain ⟨-, hpos, rfl⟩ := cadenceSource_ok_iff.1 ((resolvePeriod_pps hpps).symm.trans h)
    exact isPlus_f64Div_one hpos
  · by_cases hperiod : c.cadenceSel.getLsbD 1 = true
    · obtain ⟨-, hpos, rfl⟩ := cadenceSource_ok_iff.1 ((resolvePeriod_period hpps hperiod).symm.trans h)
      exact isPlus_of_isPos hpos
    · obtain ⟨-, hpos, rfl⟩ := cadenceSource_ok_iff.1 ((resolvePeriod_default hpps hperiod).symm.trans h)
      exact isPlus_of_isPos hpos

/-! ## start_to_start (43_cadence.md R202) -/

theorem fsOk_iff_fsUsable (c : CfgRegs) : c.fsOk = true ↔ FsUsable c := by
  rw [fsOk_iff, CfgRegs.fsWritten, pairWritten_iff, and_assoc, FsUsable, CfgRegs.fs]

theorem startToStart_of_not_fsOk {c : CfgRegs} (h : c.fsOk = false) (period : F64) :
    c.startToStart period = .error .configError := by rw [CfgRegs.startToStart, h]; rfl

theorem startToStart_of_fsOk {c : CfgRegs} (h : c.fsOk = true) (period : F64) :
    c.startToStart period = roundSamples (f64Mul period c.fs) := by rw [CfgRegs.startToStart, h]; rfl

theorem fsOk_of_startToStart {c : CfgRegs} {period : F64} {n : Nat} (h : c.startToStart period = .ok n) :
    c.fsOk = true := by
  by_contra hfs
  rw [startToStart_of_not_fsOk (Bool.eq_false_of_not_eq_true hfs)] at h
  cases h

/-- The range test on a product of sign +: a count that is nearest to it and below 2^63, or CADENCE_RANGE and a nearest
integer that is not below. -/
theorem roundSamples_cases {x : F64} (h : x.IsPlus) :
    (∃ n mag, roundSamples x = .ok n ∧ x = .fin false mag ∧ NearestEven n (realOf false mag) ∧ n < 2 ^ 63) ∨
    (roundSamples x = .error .cadenceRange ∧
      ∀ mag, x = .fin false mag → ∃ k : ℤ, NearestEven k (realOf false mag) ∧ 2 ^ 63 ≤ k) := by
  obtain rfl | ⟨mag, rfl⟩ := h
  · exact .inr ⟨rfl, fun _ hfin => nomatch hfin⟩
  · have hnear : NearestEven (rintScaled 0 false mag) (realOf false mag) := by
      have h := nearestEven_rintScaled 0 false mag
      rwa [pow_zero, mul_one] at h
    have hcount : ((rintScaled 0 false mag).toNat : ℤ) = rintScaled 0 false mag :=
      Int.toNat_of_nonneg (Int.natCast_nonneg _)
    rw [roundSamples]
    generalize rintScaled 0 false mag = k at hnear hcount ⊢
    by_cases hrange : 2 ^ 63 ≤ k
    · refine .inr ⟨if_pos hrange, ?_⟩
      rintro _ ⟨⟩
      exact ⟨k, hnear, hrange⟩
    · exact .inl ⟨k.toNat, mag, if_neg hrange, rfl, hcount.symm ▸ hnear, by omega⟩

/-! ## cadence_errors (43_cadence.md R204) -/

theorem cadenceErrors_eq_nil_iff {c : CfgRegs} : c.cadenceErrors = [] ↔
    ∃ period n, c.resolvePeriod = .ok period ∧ c.startToStart period = .ok n := by
  constructor
  · intro h
    obtain ⟨period, n, hcadence⟩ := cadence_of_cadenceErrors_eq_nil h
    exact ⟨period, n, cadence_eq_some_iff.1 hcadence⟩
  · rintro ⟨period, n, hperiod, hcount⟩
    have hfs := fsOk_of_startToStart hcount
    refine List.eq_nil_iff_forall_not_mem.2 fun e he => ?_
    simp [mem_cadenceErrors_iff, hperiod, hfs, hcount] at he

end Sys2Proof.Machine
end

section
/-! The statements about the cadence resolver's functions. -/

open Sys2Proof Sys2Proof.Machine

/-- Settles O33: the product of two data of sign + has sign +, and the range test rounds it. -/
theorem startToStartNearest : Obligations.StartToStartNearest := by
  intro c period hperiod
  rw [← fsOk_iff_fsUsable]
  constructor
  · intro hfs
    exact startToStart_of_not_fsOk (Bool.eq_false_of_not_eq_true hfs) period
  · intro hfs
    obtain ⟨-, m, hm, hpos⟩ := (fsOk_iff c).1 hfs
    have hplus : (f64Mul period c.fs).IsPlus := hm ▸ isPlus_f64Mul (isPlus_of_resolvePeriod hperiod) hpos
    rw [startToStart_of_fsOk hfs]
    exact roundSamples_cases hplus

/-- Settles O34: the three checks of R204 one by one; resolve_period never gives CADENCE_RANGE. -/
theorem noCadenceErrorMeansValues : Obligations.NoCadenceErrorMeansValues := by
  intro c
  have hrange : c.resolvePeriod ≠ .error .cadenceRange := fun h => by simpa using resolvePeriod_error h
  simp only [← fsOk_iff_fsUsable, Bool.not_eq_true]
  refine ⟨?config, ?cadence, ?range, fun e => mem_cadenceErrors, cadenceErrors_eq_nil_iff⟩
  case config | cadence | range => simp [mem_cadenceErrors_iff, hrange]

/-- Settles O32: each branch is `cadenceSource` of its own registers. -/
theorem resolvePeriodBranches : Obligations.ResolvePeriodBranches := by
  intro c
  by_cases hpps : c.cadenceSel.getLsbD 0 = true
  · rw [if_pos hpps, resolvePeriod_pps hpps]
    rfl
  · rw [if_neg hpps]
    by_cases hperiod : c.cadenceSel.getLsbD 1 = true
    · rw [if_pos hperiod, resolvePeriod_period hpps hperiod]
      rfl
    · rw [if_neg hperiod, resolvePeriod_default hpps hperiod]
      rfl

end

section
/-! SUPPORT. What raising a set of causes leaves in the error record (60_exceptions.md R244, R250), and STATUS.IRQ as a
bit of the word a read returns (R255). -/

namespace Sys2Proof.Machine

/-! ## The flag of a cause (60_exceptions.md R241) -/

theorem code_injective : Function.Injective Cause.code := fun e e' =>
  List.inj_on_of_nodup_map (show (causePriority.map Cause.code).Nodup by decide)
    (mem_causePriority e) (mem_causePriority e')

theorem code_pos (e : Cause) : 0 < e.code.toNat := by cases e <;> decide

theorem code_le_nine (e : Cause) : e.code.toNat ≤ 9 := by cases e <;> decide

/-- The ERR_FLAGS bits of the causes are distinct. -/
theorem getLsbD_flag (e' e : Cause) : e'.flag.getLsbD (e.code.toNat - 1) = decide (e' = e) := by
  have hpos := code_pos e
  have hpos' := code_pos e'
  have hle := code_le_nine e
  rw [Cause.flag, ← BitVec.twoPow_eq, BitVec.getLsbD_twoPow, ← Bool.decide_and, decide_eq_decide,
    ← code_injective.eq_iff, ← BitVec.toNat_inj]
  omega

theorem getLsbD_flagsAfter_code (f : BitVec 9) (es : List Cause) (e : Cause) :
    (flagsAfter f es).getLsbD (e.code.toNat - 1) = (f.getLsbD (e.code.toNat - 1) || decide (e ∈ es)) := by
  have hany : (es.any fun e' => e'.flag.getLsbD (e.code.toNat - 1)) = decide (e ∈ es) := by
    rw [Bool.eq_iff_iff]
    simp [getLsbD_flag]
  rw [getLsbD_flagsAfter, hany]

/-! ## The priority of the causes (60_exceptions.md R250) -/

/-- The place of a cause in R250's list of codes; the causes that are raised alone stand behind all of them. -/
def Cause.rank (e : Cause) : Nat := codePriority.idxOf e.code.toNat

theorem causePriority_rank_sorted : causePriority.Pairwise fun e e' => e.rank ≤ e'.rank := by decide

theorem rank_topCause_le {es : List Cause} {top e : Cause} (htop : topCause es = some top) (he : e ∈ es) :
    top.rank ≤ e.rank := by
  obtain ⟨-, before, after, hsplit, hbefore⟩ := List.find?_eq_some_iff_append.1 htop
  have hmem : e ∈ before ++ top :: after := hsplit ▸ mem_causePriority e
  have hnot : e ∉ before := fun h => by simpa [he] using hbefore e h
  have hsorted := (List.pairwise_append.1 (hsplit ▸ causePriority_rank_sorted)).2.1
  obtain rfl | hafter := List.mem_cons.1 ((List.mem_append.1 hmem).resolve_left hnot)
  · exact le_rfl
  · exact List.rel_of_pairwise_cons hsorted hafter

/-- Among the codes of R250 the rank tells the causes apart. -/
theorem eq_of_rank_eq {e e' : Cause} (he : e.code.toNat ∈ codePriority) (h : e.rank = e'.rank) : e = e' :=
  code_injective (BitVec.eq_of_toNat_eq ((List.idxOf_inj he).1 h))

/-- The cause of least rank in a set is the one that ERR_CODE takes. -/
theorem topCause_eq_of_rank_le {es : List Cause} {e : Cause} (hcode : e.code.toNat ∈ codePriority) (he : e ∈ es)
    (hleast : ∀ e' ∈ es, e.rank ≤ e'.rank) : topCause es = some e := by
  obtain ⟨top, htop⟩ := Option.isSome_iff_exists.1 (topCause_isSome (List.ne_nil_of_mem he))
  have hrank : e.rank = top.rank := le_antisymm (hleast top (topCause_mem htop)) (rank_topCause_le htop he)
  rw [htop, eq_of_rank_eq hcode hrank]

theorem codeAfter_zero_of_topCause {es : List Cause} {e : Cause} (h : topCause es = some e) :
    codeAfter 0 es = e.code := by
  simp [codeAfter, h]

/-! ## The interrupt level (60_exceptions.md R255) -/

theorem errorBit_eq_true_iff (s : State) : s.errorBit = true ↔ s.errFlags ≠ 0 := by simp [State.errorBit]

theorem irqLevel_eq_true_iff (s : State) : s.irqLevel = true ↔
    (s.irqEn.getLsbD 0 = true ∧ s.status.done = true) ∨ (s.irqEn.getLsbD 1 = true ∧ s.errFlags ≠ 0) ∨
      (s.irqEn.getLsbD 2 = true ∧ s.status.gapClamped = true) := by
  rw [State.irqLevel, Bool.or_eq_true, Bool.or_eq_true, Bool.and_eq_true, Bool.and_eq_true, Bool.and_eq_true,
    errorBit_eq_true_iff, or_assoc]
  rfl

theorem statusWord_irq (s : State) : s.statusWord.getLsbD 7 = s.irqLevel := by
  simp only [State.statusWord, BitVec.getLsbD_append]
  simp

end Sys2Proof.Machine
end

section
/-! The statements about raising causes and about the interrupt level. -/

open Sys2Proof Sys2Proof.Machine

/-- Settles O49: the flags are distinct bits, and the model's list of causes is sorted by R250's list of codes. -/
theorem raiseRecordsCauses : Obligations.RaiseRecordsCauses := by
  intro s es hraised
  refine ⟨getLsbD_flagsAfter_code s.errFlags es, fun hcode => codeAfter_of_ne_zero hcode es, ?_, rfl⟩
  intro hzero e he hleast
  have htop : topCause es = some e := by
    obtain hcode | halone := hraised e he
    · exact topCause_eq_of_rank_le hcode he hleast
    · rw [halone, topCause_singleton]
  rw [raiseAll_errCode, hzero, codeAfter_zero_of_topCause htop]

/-- Settles O20: STATUS stands at 0x014 of the map, and its bit 7 is the level. -/
theorem interruptLevelFormula : Obligations.InterruptLevelFormula := by
  intro s
  have hread : readOffset s 0x014 = s.statusWord := readOffset_of_regAt (r := .status) rfl s
  refine ⟨irqLevel_eq_true_iff s, s.statusWord, ?_, statusWord_irq s⟩
  rw [exec_readOp rfl, hread]

end

section
/-! SUPPORT. What a host operation does to the block, said once: every instruction has one effect, whatever the state it
meets, and an answer on the bus. -/

namespace Sys2Proof.Machine

/-! ## The effect of an instruction -/

/-- The operations that are refused while BUSY = 1 (30_encoding.md R104, 10_state.md R47). -/
inductive Guarded where
  | clrpay
  | pushc (c : Byte)
  | tune
  | build
  | resolve
  | writeCfg (x : CfgReg) (v : Word)

/-- What a host operation can do to the block. -/
inductive Effect where
  | nothing
  | raise (e : Cause)
  | clearRecord
  | reset
  | setIrqEn (v : BitVec 3)
  | setByteSel (v : Word)
  | guarded (g : Guarded)

/-- What an accepted configuration write does (10_state.md R47). -/
def acceptCfg (x : CfgReg) (v : Word) (s : State) : State :=
  { s with cfg := (s.cfg.store x v).markWritten x, status := s.status.afterCfgWrite x }

/-- What a guarded operation does once accepted. -/
def Guarded.run : Guarded → State → State
  | .clrpay => clearPayload
  | .pushc c => pushChar c
  | .tune => Machine.tune
  | .build => Machine.build
  | .resolve => Machine.resolve
  | .writeCfg x v => acceptCfg x v

/-- What an effect leaves of the block. -/
def Effect.run : Effect → State → State
  | .nothing, s => s
  | .raise e, s => Machine.raise e s
  | .clearRecord, s => Machine.clearRecord s
  | .reset, s => applyReset s
  | .setIrqEn v, s => { s with irqEn := v }
  | .setByteSel v, s => { s with byteSel := v }
  | .guarded g, s => if s.status.busy then Machine.raise .busyReject s else g.run s

/-- The effect of a command (30_encoding.md R104). -/
def commandEffect : Command → Effect
  | .nop => .nothing
  | .clrpay => .guarded .clrpay
  | .pushc c => .guarded (.pushc c)
  | .tune => .guarded .tune
  | .build => .guarded .build
  | .resolve => .guarded .resolve
  | .clrst => .clearRecord
  | .srst => .reset

/-- The effect of a full-word write (44_control.md R221). -/
def writeEffect (o : Offset) (w : Word) : Effect :=
  match regAt o with
  | some .cmd =>
    match decodeCmd w with
    | .ok c => commandEffect c
    | .error _ => .raise .illegalCmd
  | some (.cfg x) => .guarded (.writeCfg x w)
  | some .irqEn => .setIrqEn (w.setWidth 3)
  | some .byteSel => .setByteSel w
  | _ => .nothing

/-- The effect of an instruction. -/
def instrEffect : Instr → Effect
  | .nop => commandEffect .nop
  | .clrpay => commandEffect .clrpay
  | .pushc c => commandEffect (.pushc c)
  | .tune => commandEffect .tune
  | .build => commandEffect .build
  | .resolve => commandEffect .resolve
  | .clrst => commandEffect .clrst
  | .srst => commandEffect .srst
  | .rd o bits => if readShapeOk o bits then .nothing else .raise .busError
  | .wr o bits strobes w => if writeShapeOk o bits strobes then writeEffect o w else .raise .busError

/-- The answer of the block to an instruction (20_memory.md R83, 44_control.md R220, R221). -/
def instrAnswer (i : Instr) (s : State) : Response :=
  match i with
  | .rd o bits => if readShapeOk o bits then .read (readOffset s o) else .readError 0
  | .wr o bits strobes _ => if writeShapeOk o bits strobes then .written else .writeError
  | _ => .written

theorem unlessBusy_eq (g : Guarded) (s : State) :
    unlessBusy g.run s = .next (respond .written ((Effect.guarded g).run s)) := by
  cases h : s.status.busy
  · simp [unlessBusy_idle h, Effect.run, h]
  · simp [unlessBusy_busy h, Effect.run, h]

theorem performCommand_eq (c : Command) (s : State) :
    performCommand c s = .next (respond .written ((commandEffect c).run s)) := by
  cases c with
  | nop | clrst | srst => rfl
  | clrpay => exact unlessBusy_eq .clrpay s
  | pushc c => exact unlessBusy_eq (.pushc c) s
  | tune => exact unlessBusy_eq .tune s
  | build => exact unlessBusy_eq .build s
  | resolve => exact unlessBusy_eq .resolve s

theorem writeOffset_eq (o : Offset) (w : Word) (s : State) :
    writeOffset o w s = .next (respond .written ((writeEffect o w).run s)) := by
  unfold writeOffset writeEffect
  cases regAt o with
  | none => rfl
  | some r =>
    cases r with
    | cmd =>
      simp only [dispatchCmd]
      cases decodeCmd w with
      | ok c => exact performCommand_eq c s
      | error e => rfl
    | cfg x => rfl
    | _ => rfl

/-- Every host operation goes on: to its effect, with its answer. -/
theorem exec_eq (i : Instr) (s : State) :
    exec i s = .next (respond (instrAnswer i s) ((instrEffect i).run s)) := by
  cases i with
  | nop => exact performCommand_eq .nop s
  | clrpay => exact performCommand_eq .clrpay s
  | pushc c => exact performCommand_eq (.pushc c) s
  | tune => exact performCommand_eq .tune s
  | build => exact performCommand_eq .build s
  | resolve => exact performCommand_eq .resolve s
  | clrst => exact performCommand_eq .clrst s
  | srst => exact performCommand_eq .srst s
  | rd o bits =>
    simp only [exec, execRd, instrEffect, instrAnswer]
    split <;> rfl
  | wr o bits strobes w =>
    simp only [exec, execWr, instrEffect, instrAnswer]
    split
    · exact writeOffset_eq o w s
    · rfl

/-! ## Which instructions reset the block or clear its record -/

theorem commandEffect_eq_reset_iff (c : Command) : commandEffect c = .reset ↔ c = .srst := by
  cases c <;> simp [commandEffect]

theorem commandEffect_eq_clearRecord_iff (c : Command) : commandEffect c = .clearRecord ↔ c = .clrst := by
  cases c <;> simp [commandEffect]

/-- Of the offsets only CMD's is the offset of CMD. -/
theorem regAt_eq_cmd {o : Offset} (h : regAt o = some .cmd) : o = cmdOffset := by
  have hmem : (o.toNat, Reg.cmd) ∈ regMap := by
    obtain ⟨l₁, l₂, hsplit, -⟩ := List.lookup_eq_some_iff.1 h
    rw [hsplit]
    simp
  have honly : ∀ e ∈ regMap, e.2 = .cmd → e.1 = cmdOffset.toNat := by decide
  exact BitVec.eq_of_toNat_eq (honly _ hmem rfl)

/-- An operation in the spelling the bus gives it: no write of legal shape spells a command. -/
def PlainWrite (i : Instr) : Prop :=
  ∀ o bits strobes w, i = .wr o bits strobes w → writeShapeOk o bits strobes = true → o = cmdOffset →
    ∃ e, decodeCmd w = .error e

/-- What a transaction asks for: a read, a command, or a write that spells no command. -/
theorem accessInstr_cases (a : BusAccess) :
    (accessIsWrite a = false ∧ accessInstr a = .rd (accessOffset a) a.bits) ∨
    (∃ c, accessIsWrite a = true ∧ writeShapeOk (accessOffset a) a.bits a.strobes = true ∧
      accessOffset a = cmdOffset ∧ decodeCmd a.data = .ok c ∧ accessInstr a = c.toInstr) ∨
    (accessIsWrite a = true ∧ accessInstr a = .wr (accessOffset a) a.bits a.strobes a.data ∧
      (writeShapeOk (accessOffset a) a.bits a.strobes = true → accessOffset a = cmdOffset →
        ∃ e, decodeCmd a.data = .error e)) := by
  unfold accessInstr
  cases hwrite : accessIsWrite a
  · exact .inl ⟨rfl, rfl⟩
  · by_cases hcmd : (writeShapeOk (accessOffset a) a.bits a.strobes && accessOffset a == cmdOffset) = true
    · rw [if_pos rfl, if_pos hcmd]
      rw [Bool.and_eq_true, beq_iff_eq] at hcmd
      obtain ⟨hshape, hoff⟩ := hcmd
      cases hdec : decodeCmd a.data with
      | ok c => exact .inr (.inl ⟨c, rfl, hshape, hoff, rfl, rfl⟩)
      | error e => exact .inr (.inr ⟨rfl, rfl, fun _ _ => ⟨e, rfl⟩⟩)
    · rw [if_pos rfl, if_neg hcmd]
      refine .inr (.inr ⟨rfl, rfl, fun hshape hoff => absurd ?_ hcmd⟩)
      rw [hshape, hoff]
      rfl

theorem plainWrite_toInstr (c : Command) : PlainWrite c.toInstr := by
  rintro o bits strobes w h
  cases c <;> cases h

theorem plainWrite_accessInstr (a : BusAccess) : PlainWrite (accessInstr a) := by
  obtain ⟨-, h⟩ | ⟨c, -, -, -, -, h⟩ | ⟨-, h, hplain⟩ := accessInstr_cases a <;> rw [h]
  · rintro o bits strobes w ⟨⟩
  · exact plainWrite_toInstr c
  · rintro o bits strobes w ⟨⟩
    exact hplain

theorem exists_error_of_not_legal {w : Word} (h : legalCmdWord w = false) : ∃ e, decodeCmd w = .error e := by
  cases hdec : decodeCmd w with
  | ok c =>
    have hlegal := (legalCmdWord_iff w).2 ⟨c, decodeCmd_eq_ok_iff.1 hdec⟩
    simp [h] at hlegal
  | error e => exact ⟨e, rfl⟩

theorem plainWrite_of_wellFormed {i : Instr} (h : i.wellFormed = true) : PlainWrite i := by
  rintro o bits strobes w rfl - rfl
  rw [Instr.wellFormed, Bool.and_eq_true] at h
  exact exists_error_of_not_legal (by simpa using h.2)

theorem instrEffect_toInstr (c : Command) : instrEffect c.toInstr = commandEffect c := by cases c <;> rfl

/-- The effect of an operation that is no command: none that only a command has. -/
theorem writeEffect_of_plain {o : Offset} {w : Word} (h : o = cmdOffset → ∃ e, decodeCmd w = .error e) :
    writeEffect o w ≠ .reset ∧ writeEffect o w ≠ .clearRecord := by
  unfold writeEffect
  split
  next hreg =>
    obtain ⟨e, he⟩ := h (regAt_eq_cmd hreg)
    simp [he]
  all_goals simp

theorem instrEffect_of_not_command {i : Instr} (h : PlainWrite i) (hcmd : ∀ c, i ≠ Command.toInstr c) :
    instrEffect i ≠ .reset ∧ instrEffect i ≠ .clearRecord := by
  cases i with
  | rd o bits => rw [instrEffect]; split <;> simp
  | wr o bits strobes w =>
    rw [instrEffect]
    split
    next hshape => exact writeEffect_of_plain (h o bits strobes w rfl hshape)
    next => simp
  | nop => exact absurd rfl (hcmd .nop)
  | clrpay => exact absurd rfl (hcmd .clrpay)
  | pushc c => exact absurd rfl (hcmd (.pushc c))
  | tune => exact absurd rfl (hcmd .tune)
  | build => exact absurd rfl (hcmd .build)
  | resolve => exact absurd rfl (hcmd .resolve)
  | clrst => exact absurd rfl (hcmd .clrst)
  | srst => exact absurd rfl (hcmd .srst)

/-- Only SRST resets the block. -/
theorem instrEffect_ne_reset {i : Instr} (h : PlainWrite i) (hi : i ≠ .srst) : instrEffect i ≠ .reset := by
  by_cases hcmd : ∃ c, i = Command.toInstr c
  · obtain ⟨c, rfl⟩ := hcmd
    rw [instrEffect_toInstr, Ne, commandEffect_eq_reset_iff]
    rintro rfl
    exact hi rfl
  · exact (instrEffect_of_not_command h (not_exists.1 hcmd)).1

/-- Only CLRST clears the record and leaves the rest. -/
theorem instrEffect_ne_clearRecord {i : Instr} (h : PlainWrite i) (hi : i ≠ .clrst) :
    instrEffect i ≠ .clearRecord := by
  by_cases hcmd : ∃ c, i = Command.toInstr c
  · obtain ⟨c, rfl⟩ := hcmd
    rw [instrEffect_toInstr, Ne, commandEffect_eq_clearRecord_iff]
    rintro rfl
    exact hi rfl
  · exact (instrEffect_of_not_command h (not_exists.1 hcmd)).2

/-! ## What an effect can lead to -/

/-- The states a guarded operation can lead to from an idle block, with the tests that lead there. -/
inductive Guarded.Leads (s : State) : Guarded → State → Prop where
  | clrpay : Leads s .clrpay (clearPayload s)
  | pushc (c : Byte) : Leads s (.pushc c) (pushChar c s)
  | tuned (h : s.cfg.tuneOk = true) : Leads s .tune (writeTuning s)
  | tuneRefused : Leads s .tune (Machine.raise .configError s)
  | built (period : F64) (n : Nat) (herr : s.buildErrors = []) (h : s.cfg.cadence = some (period, n)) :
      Leads s .build (buildPress period n (acceptBuild s))
  | buildRefused : Leads s .build (raiseAll s.buildErrors (acceptBuild s))
  | resolved (period : F64) (n : Nat) (herr : s.cfg.cadenceErrors = []) (h : s.cfg.cadence = some (period, n)) :
      Leads s .resolve (writeCadence period n s)
  | resolveRefused : Leads s .resolve (raiseAll s.cfg.cadenceErrors s)
  | cfgWritten (x : CfgReg) (v : Word) : Leads s (.writeCfg x v) (acceptCfg x v s)

theorem Guarded.leads (g : Guarded) (s : State) : g.Leads s (g.run s) := by
  cases g with
  | clrpay => exact .clrpay
  | pushc c => exact .pushc c
  | writeCfg x v => exact .cfgWritten x v
  | tune =>
    cases h : s.cfg.tuneOk
    · rw [Guarded.run, tune_refused h]; exact .tuneRefused
    · rw [Guarded.run, tune_ok h]; exact .tuned h
  | build =>
    rw [Guarded.run]
    obtain ⟨p, n, herr, h, hb⟩ | ⟨-, hb⟩ := build_cases s <;> rw [hb]
    · exact .built p n herr h
    · exact .buildRefused
  | resolve =>
    rw [Guarded.run]
    obtain ⟨p, n, herr, h, hr⟩ | ⟨-, hr⟩ := resolve_cases s <;> rw [hr]
    · exact .resolved p n herr h
    · exact .resolveRefused

/-- The states an effect can lead to. -/
inductive Effect.Leads (s : State) : Effect → State → Prop where
  | nothing : Leads s .nothing s
  | raise (e : Cause) : Leads s (.raise e) (Machine.raise e s)
  | clearRecord : Leads s .clearRecord (Machine.clearRecord s)
  | reset : Leads s .reset (applyReset s)
  | setIrqEn (v : BitVec 3) : Leads s (.setIrqEn v) { s with irqEn := v }
  | setByteSel (v : Word) : Leads s (.setByteSel v) { s with byteSel := v }
  | rejected (g : Guarded) (hbusy : s.status.busy = true) : Leads s (.guarded g) (Machine.raise .busyReject s)
  | accepted (g : Guarded) {t : State} (hidle : s.status.busy = false) (h : g.Leads s t) : Leads s (.guarded g) t

theorem Effect.leads (f : Effect) (s : State) : f.Leads s (f.run s) := by
  cases f with
  | nothing => exact .nothing
  | raise e => exact .raise e
  | clearRecord => exact .clearRecord
  | reset => exact .reset
  | setIrqEn v => exact .setIrqEn v
  | setByteSel v => exact .setByteSel v
  | guarded g =>
    rw [Effect.run]
    split
    next hbusy => exact .rejected g hbusy
    next hidle => exact .accepted g (Bool.eq_false_of_not_eq_true hidle) (g.leads s)

/-! ## The start of a press -/

/-- The results of a BUILD that finds no error (42_framer.md R181). -/
def builtResults (period : F64) (n : Nat) (s : State) : Results :=
  { periodRes := bits64 period
    s2s := BitVec.ofNat 64 n
    ftw0 := ftw s.build.P s.cfg.f0 s.cfg.fs
    ftw1 := ftw s.build.P s.cfg.f1 s.cfg.fs
    packetSamples := BitVec.ofNat 64 s.pkt
    gapSamples := BitVec.ofNat 64 (gapLen s.pkt n)
    packetCount := s.cfg.packets
    totalSamples := BitVec.ofNat 64 (s.total n)
    totalDuration := bits64 (totalDuration (s.total n) s.cfg.fs) }

/-- The state after a BUILD that finds no error, from an idle block: what it writes, and everything else as it was. -/
theorem buildPress_acceptBuild {s : State} (period : F64) (n : Nat) (hidle : s.status.busy = false) :
    buildPress period n (acceptBuild s) = { s with
      results := builtResults period n s
      status :=
        { busy := decide (s.total n ≠ 0), done := decide (s.total n = 0), metaValid := true
          gapClamped := decide (n < s.pkt), resolveValid := true, tuneValid := true }
      engine := { k := 0, acc := 0, snap := if s.total n = 0 then s.engine.snap else s.snapshot n } } := by
  rw [buildPress, startEngine_idle (by exact hidle) rfl]
  rfl

/-! ## What a step of an agent can lead to -/

/-- The states an event can lead to, with the tests that lead there. -/
inductive Event.Leads (s : State) : Event → State → Prop where
  | unanswered (page : Nat) (a : BusAccess) (h : s.resetPin = true ∨ page ≠ s.build.page) :
      Leads s (.host page a) (respond .none s)
  | answered (a : BusAccess) {u : State} (hpin : s.resetPin = false)
      (h : (instrEffect (accessInstr a)).Leads s u) :
      Leads s (.host s.build.page a) (respond (instrAnswer (accessInstr a) s) u)
  | nothingAccepted (h : s.resetPin = true ∨ s.status.busy = false) : Leads s .accept s
  | accepted (e : Emission) (acc : Word) (hpin : s.resetPin = false) (hbusy : s.status.busy = true)
      (h : produce s.build s.engine.snap s.engine.k.toNat s.engine.acc = .ok (e, acc)) : Leads s .accept (emit e acc s)
  | asserted : Leads s .resetAssert (assertReset s)
  | released (hpin : s.resetPin = true) : Leads s .resetRelease { applyReset s with resetPin := false }
  | notHeld (hpin : s.resetPin = false) : Leads s .resetRelease s

theorem perform_leads {e : Event} {s t : State} (h : perform e s = .next t) : e.Leads s t := by
  cases e with
  | host page a =>
    obtain ⟨htest, hno⟩ | ⟨hpin, rfl, hyes⟩ := hostAccess_cases page a s
    · rw [perform, hno] at h
      cases h
      exact .unanswered page a htest
    · rw [perform, hyes, exec_eq] at h
      cases h
      exact .answered a hpin ((instrEffect (accessInstr a)).leads s)
  | accept =>
    rw [perform, sinkAccept] at h
    cases hpin : s.resetPin
    · rw [if_neg (by simp [hpin])] at h
      obtain ⟨hidle, rfl⟩ | ⟨hbusy, e, acc, hprod, rfl⟩ := engineStep_cases h
      · exact .nothingAccepted (.inr hidle)
      · exact .accepted e acc hpin hbusy hprod
    · rw [if_pos hpin] at h
      cases h
      exact .nothingAccepted (.inl hpin)
  | resetAssert => cases h; exact .asserted
  | resetRelease =>
    rw [perform, releaseReset] at h
    cases hpin : s.resetPin
    · rw [if_neg (by simp [hpin])] at h
      cases h
      exact .notHeld hpin
    · rw [if_pos hpin] at h
      cases h
      exact .released hpin

/-- What every event keeps of a state that does not name the events to come, every step keeps. -/
theorem step_keeps {P : State → Prop} (hinputs : ∀ s rest, P s → P { s with inputs := rest })
    (hevent : ∀ (e : Event) (s t : State), P s → e.Leads s t → P t) {s t : State} (hs : P s) (h : step s = .next t) : P t := by
  obtain ⟨-, rfl⟩ | ⟨e, rest, -, hperform⟩ := step_cases h
  · exact hs
  · exact hevent e _ t (hinputs s rest hs) (perform_leads hperform)

end Sys2Proof.Machine
end

section
/-! SUPPORT. Decoding what the encoder writes (30_encoding.md R101, R106), and the words that decode to no command
(R103). -/

namespace Sys2Proof.Machine

open Laws

/-! ## Decoding an encoding -/

theorem decode_of_shape {a : BusAccess} (h : accessBadShape a = none) : decode a = .ok (accessInstr a) := by
  rw [decode, h]

theorem accessInstr_of_decode {a : BusAccess} {i : Instr} (h : decode a = .ok i) : accessInstr a = i := by
  unfold decode at h
  split at h
  · cases h
  · exact Except.ok.inj h

/-- A write to CMD of a word that is a command is the command. -/
theorem accessInstr_cmdAccess {w : Word} {c : Command} (h : decodeCmd w = .ok c) :
    accessInstr (cmdAccess w) = c.toInstr := by
  have hshape : (writeShapeOk cmdOffset 32 0xF && cmdOffset == cmdOffset) = true := rfl
  simp only [accessInstr, cmdAccess, accessIsWrite_mk, accessOffset_mk, hshape, if_true, h]

theorem encode_toInstr (c : Command) : encode c.toInstr = cmdAccess (encodeCmd c) := by cases c <;> rfl

theorem decode_encode_toInstr (c : Command) : decode (encode c.toInstr) = .ok c.toInstr := by
  rw [encode_toInstr, decode_of_shape (cmdAccess_shape _), accessInstr_cmdAccess (decodeCmd_encodeCmd c)]

theorem accessInstr_encode_rd (o : Offset) (bits : Nat) : accessInstr (encode (.rd o bits)) = .rd o bits := by
  simp [accessInstr, encode, accessIsWrite_mk, accessOffset_mk]

/-- A write that spells no command is the write. -/
theorem accessInstr_encode_wr {o : Offset} {bits : Nat} {strobes : BitVec 4} {w : Word}
    (h : (Instr.wr o bits strobes w).wellFormed = true) :
    accessInstr (encode (.wr o bits strobes w)) = .wr o bits strobes w := by
  obtain ⟨hread, -⟩ | ⟨c, -, hshape, hoff, hdec, -⟩ | ⟨-, hi, -⟩ := accessInstr_cases (encode (.wr o bits strobes w))
  · have hwrite : accessIsWrite (encode (.wr o bits strobes w)) = true := accessIsWrite_mk true o bits strobes w
    rw [hwrite] at hread
    cases hread
  · have hoff' : o = cmdOffset := (accessOffset_mk true o bits strobes w).symm.trans hoff
    obtain ⟨e, he⟩ := plainWrite_of_wellFormed h o bits strobes w rfl (by rwa [hoff', ← hoff]) hoff'
    exact nomatch hdec.symm.trans he
  · rw [hi, encode, accessOffset_mk]

/-! ## The words that are no command (30_encoding.md R103) -/

theorem toNat_cmdOpcode (w : Word) : (cmdOpcode w).toNat = w.toNat % 2 ^ 8 := by
  rw [cmdOpcode, BitVec.extractLsb'_toNat, Nat.shiftRight_zero]

theorem toNat_cmdArg (w : Word) : (cmdArg w).toNat = w.toNat / 2 ^ 8 % 2 ^ 8 := by
  rw [cmdArg, BitVec.extractLsb'_toNat, Nat.shiftRight_eq_div_pow]

theorem toNat_cmdRsvd (w : Word) : (cmdRsvd w).toNat = w.toNat / 2 ^ 16 := by
  rw [cmdRsvd, BitVec.extractLsb'_toNat, Nat.shiftRight_eq_div_pow]
  omega

/-- The opcodes of the commands without an argument are 0 to 7 but for PUSHC's 2. -/
theorem plainCommand_eq_none_iff (op : Byte) : plainCommand op = none ↔ op.toNat = 2 ∨ 8 ≤ op.toNat := by
  unfold plainCommand
  split_ifs <;> simp <;> bv_omega

/-- The three clauses of R103, each on its own field. -/
theorem decodeCmd_error_iff (w : Word) : (∃ e, decodeCmd w = .error e) ↔
    cmdRsvd w ≠ 0 ∨ 8 ≤ (cmdOpcode w).toNat ∨ ((cmdOpcode w).toNat ≠ 2 ∧ cmdArg w ≠ 0) := by
  have hplain := plainCommand_eq_none_iff (cmdOpcode w)
  unfold decodeCmd
  split
  next hrsvd => exact iff_of_true ⟨_, rfl⟩ (.inl hrsvd)
  next hrsvd =>
    rw [or_iff_right hrsvd]
    split
    next hop => exact iff_of_false (by simp) (by simp [hop])
    next hop =>
      have hop2 : (cmdOpcode w).toNat ≠ 2 := fun h => hop (BitVec.eq_of_toNat_eq h)
      split
      next c hcmd =>
        have hlow : ¬ 8 ≤ (cmdOpcode w).toNat := fun h => by simp [hplain.2 (.inr h)] at hcmd
        rw [or_iff_right hlow, and_iff_right hop2]
        split
        next harg => exact iff_of_false (by simp) (not_not.2 harg)
        next harg => exact iff_of_true ⟨_, rfl⟩ harg
      next hcmd => exact iff_of_true ⟨_, rfl⟩ (.inl ((hplain.1 hcmd).resolve_left hop2))

/-- Writing such a word to CMD, busy or not. -/
theorem exec_writeOp_cmd (w : Word) (s : State) : exec (writeOp cmdOffset w) s = dispatchCmd w s := by
  rw [exec_writeOp rfl, writeOffset, show regAt cmdOffset = some .cmd from rfl]

theorem completed_eq (s : State) : completed s = .next { s with resp := .written } := rfl

/-! ## Accesses of bad shape (20_memory.md R83) -/

/-- The shape an access is not to have. -/
theorem shapes_not_ok {a : BusAccess}
    (h : (accessOffset a).toNat % 4 ≠ 0 ∨ a.bits ≠ 32 ∨ (accessIsWrite a = true ∧ a.strobes ≠ 0xF)) :
    (accessIsWrite a = false → readShapeOk (accessOffset a) a.bits = false) ∧
      (accessIsWrite a = true → writeShapeOk (accessOffset a) a.bits a.strobes = false) := by
  constructor
  · intro hread
    rw [Bool.eq_false_iff, Ne, readShapeOk, alignedOffset, Bool.and_eq_true, beq_iff_eq, beq_iff_eq]
    rintro ⟨halign, hbits⟩
    simp_all
  · intro hwrite
    rw [Bool.eq_false_iff, Ne, writeShapeOk, readShapeOk, alignedOffset, Bool.and_eq_true, Bool.and_eq_true, beq_iff_eq,
      beq_iff_eq, beq_iff_eq]
    rintro ⟨⟨halign, hbits⟩, hstrobes⟩
    simp_all

/-! ## Placing an access -/

/-- A step whose event is an access of the block's own page runs it. -/
theorem step_host {s : State} {a : BusAccess} {rest : List Event} (h : s.inputs = .host s.build.page a :: rest)
    (hpin : s.resetPin = false) : step s = exec (accessInstr a) { s with inputs := rest } := by
  rw [step_cons h, perform]
  obtain ⟨htest, -⟩ | ⟨-, -, hyes⟩ := hostAccess_cases s.build.page a { s with inputs := rest }
  · simp [hpin] at htest
  · exact hyes

/-- The access a table word stands for asks for what the word decodes to. -/
theorem accessInstr_tableAccess {nbits w : Nat} {i : Instr} (h : decodeTableWord nbits w = some i) :
    accessInstr (tableAccess nbits w) = i := by
  unfold decodeTableWord at h
  split at h
  next hbus =>
    split at h
    · split at h
      next hdec =>
        cases h
        exact accessInstr_of_decode hdec
      · cases h
    · cases h
  next hbus =>
    split at h
    next c hdec =>
      cases h
      rw [tableAccess, if_neg hbus, accessInstr_cmdAccess hdec]
    · cases h

end Sys2Proof.Machine
end

section
/-! The statements about encoding, decoding and the delivery of an access. -/

open Sys2Proof Sys2Proof.Machine

/-- Settles O1: the commands by their words, a read and a write by the fields of the transaction. -/
theorem decodeOfEncode : Obligations.DecodeOfEncode := by
  intro i hwf
  cases i with
  | nop => exact decode_encode_toInstr .nop
  | clrpay => exact decode_encode_toInstr .clrpay
  | pushc c => exact decode_encode_toInstr (.pushc c)
  | tune => exact decode_encode_toInstr .tune
  | build => exact decode_encode_toInstr .build
  | resolve => exact decode_encode_toInstr .resolve
  | clrst => exact decode_encode_toInstr .clrst
  | srst => exact decode_encode_toInstr .srst
  | rd o bits => rw [decode_of_shape (Laws.EncodedShape.rd o bits hwf), accessInstr_encode_rd]
  | wr o bits strobes w =>
    rw [decode_of_shape (Laws.EncodedShape.wr o bits strobes w hwf), accessInstr_encode_wr hwf]

/-- Settles O3: the clauses of R103 field by field, and the arm of the dispatch before the busy check. -/
theorem illegalWordsRaiseIllegalCmd : Obligations.IllegalWordsRaiseIllegalCmd := by
  intro w s
  constructor
  · have hrsvd : cmdRsvd w ≠ 0 ↔ (cmdRsvd w).toNat ≠ 0 := BitVec.toNat_ne_iff_ne.symm
    have harg : cmdArg w ≠ 0 ↔ (cmdArg w).toNat ≠ 0 := BitVec.toNat_ne_iff_ne.symm
    rw [decodeCmd_error_iff, hrsvd, harg, toNat_cmdOpcode, toNat_cmdArg, toNat_cmdRsvd]
  · rintro ⟨e, he⟩
    rw [exec_writeOp_cmd, dispatchCmd, he, completed_eq, raise_eq_recordError]
    rfl

/-- Settles O4, by evaluating the decoder on each word. -/
theorem tableWordsDecode : Obligations.TableWordsDecode := by
  unfold Obligations.TableWordsDecode
  decide

/-- Settles O5: the block's own page, the reset input not asserted. -/
theorem stepRunsDecodedInstruction : Obligations.StepRunsDecodedInstruction := by
  intro s a rest hinputs hpin
  refine ⟨step_host hinputs hpin, fun i hdec => ?_⟩
  rw [step_host hinputs hpin, accessInstr_of_decode hdec]

/-- Settles O6: the placed access is the next event, and asks for what the word decodes to. -/
theorem fetchedWordRuns : Obligations.FetchedWordRuns := by
  intro s nbits w i hdec
  have hstep : step (s.withFetchWord nbits w) = exec (accessInstr (tableAccess nbits w)) { s with resetPin := false } :=
    step_host (s := placeAccess (tableAccess nbits w) s) rfl rfl
  rw [hstep, accessInstr_tableAccess hdec]

/-- Settles O7: a read or a write by its direction, either refused by its shape. -/
theorem badShapeAccessRaisesBusError : Obligations.BadShapeAccessRaisesBusError := by
  intro a s hbad
  obtain ⟨hread, hwrite⟩ := shapes_not_ok hbad
  obtain ⟨hdir, hi⟩ | ⟨c, hdir, hshape, -⟩ | ⟨hdir, hi, -⟩ := accessInstr_cases a
  · rw [hi, hdir, exec, execRd, hread hdir, if_neg Bool.false_ne_true, badRead, raise_eq_recordError]
    rfl
  · rw [hwrite hdir] at hshape
    cases hshape
  · rw [hi, hdir, exec, execWr, hwrite hdir, if_neg Bool.false_ne_true, badWrite, raise_eq_recordError]
    rfl

/-- Settles O8: an access of another page is not performed. -/
theorem accessOutsideWindowIgnored : Obligations.AccessOutsideWindowIgnored := by
  intro s page a rest hinputs hpage
  rw [step_cons hinputs, perform]
  obtain ⟨-, hno⟩ | ⟨-, hown, -⟩ := hostAccess_cases page a { s with inputs := rest }
  · exact hno
  · exact absurd hown hpage

/-- Settles O9: the word of a command decodes to it. -/
theorem cmdWriteIsTheCommand : Obligations.CmdWriteIsTheCommand := by
  intro s c
  rw [exec_writeOp_cmd, dispatchCmd_ok (decodeCmd_encodeCmd c)]

end

section
/-! SUPPORT. The engine step against the press (42_framer.md R182, R184): the sample on offer is press(k), the accumulator
follows R158, and a press in progress goes on or ends; and the isolation of the press from the host (R276). -/

namespace Sys2Proof.Machine

/-! ## The bounds of a legal build -/

theorem bounds_of_legal {b : Build} (h : b.legal = true) :
    1 ≤ b.P ∧ b.P ≤ 32 ∧ 1 ≤ b.L ∧ b.L ≤ b.P ∧ 1 ≤ b.N ∧ b.N ≤ 65535 := by
  simp only [Build.legal, Bool.and_eq_true, decide_eq_true_eq] at h
  omega

theorem two_pow_P_le {b : Build} (h : b.legal = true) : 2 ^ b.P ≤ 2 ^ 32 :=
  Nat.pow_le_pow_right two_pos (bounds_of_legal h).2.1

/-! ## The sample of index k -/

/-- Every packet sample has its bit. -/
theorem exists_bit {b : Build} {p : Snapshot} (h : SnapshotOk b p) {i : Nat} (hi : i < p.pkt) :
    ∃ v, p.bits[i / p.sps]? = some v := by
  have hlt : i / p.sps < p.bits.length := Nat.div_lt_of_lt_mul (by rwa [mul_comm, ← h.pkt])
  exact ⟨_, List.getElem?_eq_getElem hlt⟩

/-- The accumulator is reduced mod 2^P, which fits its field. -/
theorem toNat_nextAcc {b : Build} (h : b.legal = true) (p : Snapshot) (i : Nat) (acc : Word) (v : Bool) :
    (nextAcc b p i acc v).toNat = ((if i = 0 then 0 else acc.toNat) + (p.ftw v).toNat) % 2 ^ b.P := by
  have hmod := Nat.mod_lt ((if i = 0 then 0 else acc.toNat) + (p.ftw v).toNat) (Nat.two_pow_pos b.P)
  rw [nextAcc, BitVec.toNat_ofNat, Nat.mod_eq_of_lt (hmod.trans_le (two_pow_P_le h))]

theorem toNat_nextAcc_lt {b : Build} (h : b.legal = true) (p : Snapshot) (i : Nat) (acc : Word) (v : Bool) :
    (nextAcc b p i acc v).toNat < 2 ^ b.P := by
  rw [toNat_nextAcc h]
  exact Nat.mod_lt _ (Nat.two_pow_pos b.P)

/-- The recurrence of 41_modulator.md R158 is the engine's. -/
theorem toNat_nextAcc_eq_phaseAt {b : Build} (h : b.legal = true) {p : Snapshot} {i : Nat} {acc : Word} {v : Bool}
    (hbit : p.bits[i / p.sps]? = some v) (hacc : ∀ j, i = j + 1 → acc.toNat = phaseAt b p j) :
    (nextAcc b p i acc v).toNat = phaseAt b p i := by
  rw [toNat_nextAcc h, ← sampleFtw_of_bit hbit]
  cases i with
  | zero => rw [if_pos rfl, zero_add, phaseAt]
  | succ j => rw [if_neg (Nat.succ_ne_zero j), hacc j rfl, phaseAt]

theorem toneIndex_lt {b : Build} (h : b.legal = true) {a : Nat} (ha : a < 2 ^ b.P) : toneIndex b a < 2 ^ b.L := by
  obtain ⟨-, -, -, hle, -⟩ := bounds_of_legal h
  refine Nat.div_lt_of_lt_mul ?_
  rwa [← pow_add, Nat.sub_add_cancel hle]

/-- The table of a legal build has an entry for every index. -/
theorem toneEntry_of_lt {b : Build} (h : b.legal = true) {k : Nat} (hk : k < 2 ^ b.L) :
    toneEntry b k = some (toneAt b k) := by
  have hentry : ∃ x, toneEntry b k = some x := by
    unfold toneEntry
    split
    · exact ⟨_, rfl⟩
    next es hes =>
      have hlen : es.length = 2 ^ b.L := by
        simp only [Build.legal, hes, Bool.and_eq_true, beq_iff_eq] at h
        exact h.2
      exact ⟨_, List.getElem?_eq_getElem (hlen ▸ hk)⟩
  obtain ⟨x, hx⟩ := hentry
  rw [toneAt, hx, Option.getD_some]

theorem usable_of_snapshotOk {b : Build} {p : Snapshot} (h : SnapshotOk b p) : p.usable = true := by
  simp [Snapshot.usable, h.unit, h.sps]

/-- The sample from a snapshot that a BUILD can have written: never a fault. -/
theorem produce_of_snapshotOk {b : Build} {p : Snapshot} (hb : b.legal = true) (hp : SnapshotOk b p) (k : Nat)
    (acc : Word) :
    ∃ a, produce b p k acc = .ok (
        { word := if k % p.unit < p.pkt then sampleWord (toneAt b (toneIndex b a.toNat)) else 0
          sop := k % p.unit == 0, gap := decide (p.pkt ≤ k % p.unit), last := k + 1 == p.total }, a) ∧
      ((k % p.unit < p.pkt ∧ ∃ v, p.bits[k % p.unit / p.sps]? = some v ∧ a = nextAcc b p (k % p.unit) acc v) ∨
        (¬ k % p.unit < p.pkt ∧ a = acc)) := by
  unfold produce
  rw [usable_of_snapshotOk hp, if_neg (by decide)]
  by_cases hi : k % p.unit < p.pkt
  · obtain ⟨v, hv⟩ := exists_bit hp hi
    have htone := toneEntry_of_lt hb (toneIndex_lt hb (toNat_nextAcc_lt hb p (k % p.unit) acc v))
    refine ⟨nextAcc b p (k % p.unit) acc v, ?_, .inl ⟨hi, v, hv, rfl⟩⟩
    simp only [hi, if_true, hv, htone, decide_eq_false (not_le.2 hi)]
  · refine ⟨acc, ?_, .inr ⟨hi, rfl⟩⟩
    simp only [hi, if_false, decide_eq_true (not_lt.1 hi)]

/-! ## A press in progress -/

/-- Where the accumulator stands after sample k: at the phase of a packet sample, unmoved in the gap. -/
def AccAfter (s : State) (a : Word) : Prop :=
  if s.engine.k.toNat % s.engine.snap.unit < s.engine.snap.pkt then
    a.toNat = phaseAt s.build s.engine.snap (s.engine.k.toNat % s.engine.snap.unit)
  else a = s.engine.acc

/-- The sample on offer is press(k). -/
theorem produce_of_streaming {s : State} (h : Streaming s) :
    ∃ a, produce s.build s.engine.snap s.engine.k.toNat s.engine.acc =
        .ok (pressSample s.build s.engine.snap s.engine.k.toNat, a) ∧ AccAfter s a := by
  obtain ⟨a, hprod, ⟨hi, v, hv, ha⟩ | ⟨hi, ha⟩⟩ :=
    produce_of_snapshotOk h.build h.snap s.engine.k.toNat s.engine.acc
  · have hacc : a.toNat = phaseAt s.build s.engine.snap (s.engine.k.toNat % s.engine.snap.unit) :=
      ha ▸ toNat_nextAcc_eq_phaseAt h.build hv fun j hj => h.phase j hj (hj ▸ hi)
    refine ⟨a, hprod.trans ?_, ?_⟩
    · rw [hacc]
      rfl
    · rwa [AccAfter, if_pos hi]
  · refine ⟨a, hprod.trans ?_, ?_⟩
    · simp only [pressSample, if_neg hi]
    · rwa [AccAfter, if_neg hi]

theorem toNat_succ_k {s : State} (h : Streaming s) : (s.engine.k + 1).toNat = s.engine.k.toNat + 1 := by
  have hleft := h.left
  have hbound := h.snap.bound
  have hone : (1 : DWord).toNat = 1 := rfl
  rw [BitVec.toNat_add, hone]
  omega

/-- A remainder that is not 0 is one more than the remainder before. -/
theorem mod_of_succ_mod {k u i : Nat} (h : (k + 1) % u = i + 1) : k % u = i := by
  have hstep := Nat.add_mod k 1 u
  obtain hu | hu | hu : u = 0 ∨ u = 1 ∨ 1 < u := by omega
  · simp_all
  · simp [hu, Nat.mod_one] at h
  · have hlt := Nat.mod_lt k (by omega : 0 < u)
    rw [Nat.mod_eq_of_lt hu] at hstep
    obtain hlast | hbefore : k % u + 1 = u ∨ k % u + 1 < u := by omega
    · rw [hlast, Nat.mod_self] at hstep
      omega
    · rw [Nat.mod_eq_of_lt hbefore] at hstep
      omega

/-- With samples left the press goes on. -/
theorem streaming_emit {s : State} (h : Streaming s) {a : Word} (ha : AccAfter s a)
    (hleft : s.engine.k.toNat + 1 < s.engine.snap.total) :
    Streaming (emit (pressSample s.build s.engine.snap s.engine.k.toNat) a s) := by
  have hlast : (pressSample s.build s.engine.snap s.engine.k.toNat).last = false := by
    simp [pressSample, hleft.ne]
  refine ⟨h.build, ?_, h.pin, h.snap, ?_, ?_⟩
  · rw [emit_status, hlast, if_neg Bool.false_ne_true, h.busy]
  · rwa [emit_engine, toNat_succ_k h]
  · intro i hi hpkt
    simp only [emit_engine, emit_build, toNat_succ_k h] at hi hpkt ⊢
    have hpos := mod_of_succ_mod hi
    rw [AccAfter, hpos, if_pos (by omega)] at ha
    exact ha

/-- An acceptance emits press(k). -/
theorem perform_accept_of_streaming {s : State} (h : Streaming s) :
    ∃ a, perform .accept s = .next (emit (pressSample s.build s.engine.snap s.engine.k.toNat) a s) ∧ AccAfter s a := by
  obtain ⟨a, hprod, ha⟩ := produce_of_streaming h
  refine ⟨a, ?_, ha⟩
  rw [perform, sinkAccept, if_neg (by simp [h.pin]), engineStep, State.offer, if_pos h.busy, hprod]

/-- The status after an acceptance: the press ends with its last sample. -/
theorem emit_pressSample_status (s : State) (a : Word) :
    (emit (pressSample s.build s.engine.snap s.engine.k.toNat) a s).status =
      if s.engine.k.toNat + 1 = s.engine.snap.total then { s.status with busy := false, done := true }
      else s.status := by
  simp [pressSample]

/-! ## The block while BUSY = 1 (70_reset_and_hazards.md R276) -/

/-- What no host operation but a reset changes while BUSY = 1. -/
structure Isolated (s t : State) : Prop where
  engine : t.engine = s.engine
  busy : t.status.busy = s.status.busy
  payload : t.payload = s.payload
  cfg : t.cfg = s.cfg
  results : t.results = s.results
  stream : t.stream = s.stream
  build : t.build = s.build
  inputs : t.inputs = s.inputs
  resetPin : t.resetPin = s.resetPin

/-- While BUSY = 1 every guarded operation is rejected. -/
theorem isolated_of_leads {f : Effect} {s t : State} (h : f.Leads s t) (hbusy : s.status.busy = true)
    (hreset : f ≠ .reset) : Isolated s t := by
  cases h with
  | reset => exact absurd rfl hreset
  | accepted g hidle h => simp [hidle] at hbusy
  | _ => constructor <;> rfl

theorem isolated_respond {s t : State} (h : Isolated s t) (r : Response) : Isolated s (respond r t) :=
  ⟨h.engine, h.busy, h.payload, h.cfg, h.results, h.stream, h.build, h.inputs, h.resetPin⟩

theorem Isolated.streaming {s t : State} (hst : Isolated s t) (h : Streaming s) : Streaming t where
  build := hst.build ▸ h.build
  busy := hst.busy ▸ h.busy
  pin := hst.resetPin ▸ h.pin
  snap := hst.engine ▸ hst.build ▸ h.snap
  left := hst.engine ▸ h.left
  phase := hst.engine ▸ hst.build ▸ h.phase

theorem Isolated.offer {s t : State} (h : Isolated s t) : t.offer = s.offer := by
  rw [State.offer, State.offer, h.busy, h.build, h.engine]

/-- A host access that is no SRST goes on and leaves the press alone. -/
theorem perform_host_isolated {s : State} (hbusy : s.status.busy = true) {page : Nat} {a : BusAccess}
    (hquiet : Event.quiet (.host page a) = true) : ∃ t, perform (.host page a) s = .next t ∧ Isolated s t := by
  have hi : accessInstr a ≠ .srst := by simpa [Event.quiet] using hquiet
  rw [perform]
  obtain ⟨-, hno⟩ | ⟨-, -, hyes⟩ := hostAccess_cases page a s
  · exact ⟨_, hno, by constructor <;> rfl⟩
  · refine ⟨_, hyes.trans (exec_eq _ s), isolated_respond ?_ _⟩
    exact isolated_of_leads ((instrEffect _).leads s) hbusy (instrEffect_ne_reset (plainWrite_accessInstr a) hi)

/-! ## A run of events -/

theorem performAll_cons {e : Event} {s t : State} (h : perform e s = .next t) (es : List Event) :
    performAll (e :: es) s = performAll es t := by
  simp [performAll, h]

theorem acceptCount_host (page : Nat) (a : BusAccess) (es : List Event) :
    acceptCount (.host page a :: es) = acceptCount es := List.countP_cons_of_neg (by simp)

theorem acceptCount_accept (es : List Event) : acceptCount (.accept :: es) = acceptCount es + 1 :=
  List.countP_cons_of_pos (by simp)

/-- The samples press(k) to press(k + m - 1). -/
def pressFrom (b : Build) (p : Snapshot) (k m : Nat) : List Emission :=
  (List.range m).map fun j => pressSample b p (k + j)

theorem pressFrom_succ (b : Build) (p : Snapshot) (k m : Nat) :
    pressFrom b p k (m + 1) = pressSample b p k :: pressFrom b p (k + 1) m := by
  simp [pressFrom, List.range_succ_eq_map, Function.comp_def, Nat.add_comm, Nat.add_left_comm]

/-- Quiet events that leave a sample keep the press and emit its next samples, one for each acceptance. -/
theorem performAll_of_streaming {es : List Event} {s : State} (h : Streaming s) (hquiet : ∀ e ∈ es, e.quiet = true)
    (hleft : s.engine.k.toNat + acceptCount es < s.engine.snap.total) :
    ∃ t, performAll es s = .next t ∧ Streaming t ∧ t.engine.snap = s.engine.snap ∧
      t.engine.k.toNat = s.engine.k.toNat + acceptCount es ∧
      t.stream = s.stream ++ pressFrom s.build s.engine.snap s.engine.k.toNat (acceptCount es) := by
  induction es generalizing s with
  | nil => exact ⟨s, rfl, h, rfl, rfl, (List.append_nil _).symm⟩
  | cons e es ih =>
    obtain ⟨hfirst, hrest⟩ := List.forall_mem_cons.1 hquiet
    cases e with
    | host page a =>
      obtain ⟨u, hperform, hu⟩ := perform_host_isolated h.busy hfirst
      rw [acceptCount_host] at hleft ⊢
      obtain ⟨t, hrun, ht, hsnap, hk, hstream⟩ := ih (hu.streaming h) hrest (by rwa [hu.engine])
      rw [hu.engine] at hsnap hk hstream
      rw [hu.build, hu.stream] at hstream
      exact ⟨t, (performAll_cons hperform es).trans hrun, ht, hsnap, hk, hstream⟩
    | accept =>
      obtain ⟨a, hperform, ha⟩ := perform_accept_of_streaming h
      rw [acceptCount_accept] at hleft ⊢
      have hu := streaming_emit h ha (by omega)
      have hku := toNat_succ_k h
      obtain ⟨t, hrun, ht, hsnap, hk, hstream⟩ := ih hu hrest (by simp only [emit_engine, hku]; omega)
      simp only [emit_engine, emit_build, emit_stream, hku] at hsnap hk hstream
      refine ⟨t, (performAll_cons hperform es).trans hrun, ht, hsnap, by omega, ?_⟩
      rw [hstream, pressFrom_succ, List.append_assoc, List.singleton_append]
    | resetAssert => cases hfirst
    | resetRelease => cases hfirst

end Sys2Proof.Machine
end

section
/-! The statements about a press in progress. -/

open Sys2Proof Sys2Proof.Machine

/-- Settles O41, by induction on the events: a host access leaves the press alone, an acceptance emits its next
sample. -/
theorem interleavingKeepsStream : Obligations.InterleavingKeepsStream :=
  fun _ _ h hquiet hleft => performAll_of_streaming h hquiet hleft

/-- Settles O39: the sample on offer is press(k), and what `emit` leaves is a press in progress while samples are
left. -/
theorem engineStepEmitsPressSample : Obligations.EngineStepEmitsPressSample := by
  intro s rest h hinputs
  have h' : Streaming { s with inputs := rest } := ⟨h.build, h.busy, h.pin, h.snap, h.left, h.phase⟩
  obtain ⟨a, hperform, ha⟩ := perform_accept_of_streaming h'
  refine ⟨_, (step_cons hinputs).trans hperform, ?_, rfl, toNat_succ_k h', ha, streaming_emit h' ha⟩
  rw [← emit_pressSample_status { s with inputs := rest } a]
  rfl

/-- Settles O42: while BUSY = 1 the guarded operations are rejected, and only SRST resets. -/
theorem busyBlockIsIsolatedFromHost : Obligations.BusyBlockIsIsolatedFromHost := by
  intro s i hbusy hwf hi
  have hreset := instrEffect_ne_reset (plainWrite_of_wellFormed hwf) hi
  have h := isolated_respond (isolated_of_leads ((instrEffect i).leads s) hbusy hreset) (instrAnswer i s)
  exact ⟨_, exec_eq i s, h.engine, h.offer, h.busy.trans hbusy, h.payload, h.cfg, h.results, h.stream, h.build,
    h.inputs, h.resetPin⟩

/-- Settles O43: with BUSY = 0 nothing is on offer. -/
theorem acceptWithNothingOnOffer : Obligations.AcceptWithNothingOnOffer := by
  intro s rest hidle hinputs
  have hoffer : ({ s with inputs := rest } : State).offer = none := if_neg (by simp [hidle])
  rw [step_cons hinputs, perform, sinkAccept, engineStep, hoffer, ite_self]

end

section
/-! SUPPORT. The decode function of 40_bit_decoder.md R137, digit by digit, byte by byte and bit by bit. -/

namespace Sys2Proof.Machine

/-! ## Pairs of digits -/

theorem length_nibblePairs (l : List Nibble) : (nibblePairs l).length = l.length / 2 := by
  induction l using nibblePairs.induct with
  | case1 a b rest ih =>
    rw [nibblePairs, List.length_cons, ih, List.length_cons, List.length_cons]
    omega
  | case2 l hshort =>
    match l, hshort with
    | [], _ => rfl
    | [_], _ => simp [nibblePairs]
    | a :: b :: rest, hshort => exact absurd rfl (hshort a b rest)

/-- Byte k is made of digits 2k and 2k + 1. -/
theorem nibblePairs_getElem? {l : List Nibble} {k : Nat} (h : 2 * k + 1 < l.length) :
    (nibblePairs l)[k]? = some (l.getD (2 * k) 0 ++ l.getD (2 * k + 1) 0) := by
  induction l using nibblePairs.induct generalizing k with
  | case1 a b rest ih =>
    cases k with
    | zero => rfl
    | succ k =>
      rw [List.length_cons, List.length_cons] at h
      exact ih (by omega)
  | case2 l hshort =>
    match l, hshort with
    | [], _ => simp at h
    | [_], _ => simp at h
    | a :: b :: rest, hshort => exact absurd rfl (hshort a b rest)

/-! ## The padded digits -/

theorem length_padded {p : Payload} (h : p.n ≤ p.nib.length) : p.padded.length = 2 * p.nbytes := by
  have hdigits : p.digits.length = p.n := by rw [Payload.digits, List.length_take, Nat.min_eq_left h]
  unfold Payload.padded Payload.nbytes
  split
  · rw [List.length_cons, hdigits]; omega
  · rw [hdigits]; omega

theorem digits_getD {p : Payload} {m : Nat} (h : m < p.n) : p.digits.getD m 0 = p.nib.getD m 0 := by
  rw [Payload.digits, List.getD_eq_getElem?_getD, List.getD_eq_getElem?_getD, List.getElem?_take_of_lt h]

/-- q[m] of R137 is entry m of the padded digits. -/
theorem toNat_padded_getD {p : Payload} {m : Nat} (h : m < 2 * p.nbytes) :
    (p.padded.getD m 0).toNat = padDigit p m := by
  unfold Payload.nbytes at h
  unfold Payload.padded padDigit
  split
  · cases m with
    | zero => rfl
    | succ m => rw [List.getD_cons_succ, digits_getD (by omega)]; simp
  · rw [digits_getD (by omega)]

/-! ## The decoded bytes -/

theorem length_bytes {p : Payload} (h : p.n ≤ p.nib.length) : p.bytes.length = p.nbytes := by
  rw [Payload.bytes, length_nibblePairs, length_padded h, Nat.mul_div_cancel_left _ two_pos]

theorem bytes_getElem? {p : Payload} (h : p.n ≤ p.nib.length) {k : Nat} (hk : k < p.nbytes) :
    ∃ b, p.bytes[k]? = some b ∧ b.toNat = byteAt p k := by
  refine ⟨_, nibblePairs_getElem? (by rw [length_padded h]; omega), ?_⟩
  rw [toNat_append_eq_add, toNat_padded_getD (by omega), toNat_padded_getD (by omega), byteAt, mul_comm]
  rfl

/-- BYTE_DATA in numbers (10_state.md R48). -/
theorem byteData_eq {p : Payload} (h : p.n ≤ p.nib.length) (sel : Word) :
    p.byteData sel = if sel.toNat < p.nbytes then BitVec.ofNat 32 (2 ^ 8 + byteAt p sel.toNat) else 0 := by
  unfold Payload.byteData
  split_ifs with hsel
  · obtain ⟨b, hb, hnat⟩ := bytes_getElem? h hsel
    rw [hb, ← hnat]
    apply BitVec.eq_of_toNat_eq
    have hpad : (0 : BitVec 23).toNat = 0 := rfl
    have hvalid : (1 : BitVec 1).toNat = 1 := rfl
    simp only [toNat_append_eq_add, BitVec.toNat_ofNat, hpad, hvalid]
    have := b.isLt
    omega
  · rw [List.getElem?_eq_none (by rw [length_bytes h]; omega)]

/-! ## The decoded bits -/

theorem length_flatMap_byteBits (l : List Byte) : (l.flatMap byteBits).length = 8 * l.length := by
  induction l with
  | nil => rfl
  | cons b l ih =>
    rw [List.flatMap_cons, List.length_append, ih, List.length_cons]
    have : (byteBits b).length = 8 := rfl
    omega

theorem byteBits_getElem? (b : Byte) {i : Nat} (h : i < 8) :
    (byteBits b)[i]? = some (decide (b.toNat / 2 ^ (7 - i) % 2 = 1)) := by
  rw [← Nat.testBit_eq_decide_div_mod_eq]
  interval_cases i <;> rfl

/-- Bit j is bit j mod 8 of byte j div 8. -/
theorem flatMap_byteBits_getElem? {l : List Byte} {j : Nat} {b : Byte} (h : l[j / 8]? = some b) :
    (l.flatMap byteBits)[j]? = (byteBits b)[j % 8]? := by
  induction l generalizing j with
  | nil => simp at h
  | cons c l ih =>
    have hlen : (byteBits c).length = 8 := rfl
    rw [List.flatMap_cons]
    by_cases hj : j < 8
    · rw [Nat.div_eq_of_lt hj, List.getElem?_cons_zero, Option.some.injEq] at h
      rw [List.getElem?_append_left (by omega), Nat.mod_eq_of_lt hj, h]
    · have hstep : j / 8 = (j - 8) / 8 + 1 := by omega
      rw [hstep, List.getElem?_cons_succ] at h
      rw [List.getElem?_append_right (by omega), hlen, ih h, show (j - 8) % 8 = j % 8 by omega]

theorem length_bits {p : Payload} (h : p.n ≤ p.nib.length) : p.bits.length = p.bitCount := by
  rw [Payload.bits, length_flatMap_byteBits, length_bytes h, Payload.bitCount]

theorem bits_getElem? {p : Payload} (h : p.n ≤ p.nib.length) {j : Nat} (hj : j < p.bitCount) :
    p.bits[j]? = some (decide (bitAt p j = 1)) := by
  unfold Payload.bitCount at hj
  obtain ⟨b, hb, hnat⟩ := bytes_getElem? h (k := j / 8) (by omega)
  rw [Payload.bits, flatMap_byteBits_getElem? hb, byteBits_getElem? b (Nat.mod_lt j (by omega)), hnat, bitAt]

end Sys2Proof.Machine
end

section
/-! The statements about the decoded payload. -/

open Sys2Proof Sys2Proof.Machine

/-- Settles O24: eight bits for each byte, each byte two of the padded digits. -/
theorem decodeFunctionBits : Obligations.DecodeFunctionBits :=
  fun _ h => ⟨length_bits h, fun _ hj => bits_getElem? h hj⟩

/-- Settles O25: BYTE_DATA's entry of the map, in numbers. -/
theorem byteDataReads : Obligations.ByteDataReads := by
  intro s h
  have hread : readOffset s 0x06C = s.payload.byteData s.byteSel := readOffset_of_regAt (r := .byteData) rfl s
  rw [exec_readOp rfl, hread, byteData_eq h]
  rfl

end

section
/-! SUPPORT. The parts of the machine's invariant, one by one, through every operation: the results are in range, the
error record names a flag that is set, and BUILD writes a usable snapshot (10_state.md, 42_framer.md section 3). -/

namespace Sys2Proof.Machine

/-! ## Ranges of the results -/

/-- A tuning word is the rounded quotient mod 2^P (41_modulator.md R151). -/
theorem toNat_ftw {p : Nat} (hp : p ≤ 32) {f fs : F64} {neg : Bool} {mag : Nat} (h : f64Div f fs = .fin neg mag) :
    ((ftw p f fs).toNat : ℤ) = rintScaled p neg mag % 2 ^ p := by
  have hpos : (0 : ℤ) < 2 ^ p := by positivity
  have hnonneg := Int.emod_nonneg (rintScaled p neg mag) hpos.ne'
  have hlt := Int.emod_lt_of_pos (rintScaled p neg mag) hpos
  have hle : (2 : ℤ) ^ p ≤ 2 ^ 32 := pow_le_pow_right₀ one_le_two hp
  simp only [ftw, h, BitVec.toNat_ofNat]
  omega

theorem toNat_ftw_lt {p : Nat} (hp : p ≤ 32) (f fs : F64) : (ftw p f fs).toNat < 2 ^ p := by
  cases h : f64Div f fs with
  | fin neg mag =>
    have hword := toNat_ftw hp h
    have hlt := Int.emod_lt_of_pos (rintScaled p neg mag) (show (0 : ℤ) < 2 ^ p by positivity)
    exact_mod_cast hword ▸ hlt
  | inf neg => simp [ftw, h]
  | nan => simp [ftw, h]

theorem roundSamples_lt {x : F64} {n : Nat} (h : roundSamples x = .ok n) : n < 2 ^ 63 := by
  unfold roundSamples at h
  split at h
  · split at h
    · cases h
    · cases h
      omega
  · cases h
  · cases h

/-- The start-to-start count of a cadence without an error is below 2^63 (43_cadence.md R202). -/
theorem cadence_lt {c : CfgRegs} {period : F64} {n : Nat} (h : c.cadence = some (period, n)) : n < 2 ^ 63 := by
  obtain ⟨-, hcount⟩ := cadence_eq_some_iff.1 h
  rw [startToStart_of_fsOk (fsOk_of_startToStart hcount)] at hcount
  exact roundSamples_lt hcount

/-! ## The error record -/

theorem RecordOk.congr {s t : State} (h : RecordOk s) (hflags : t.errFlags = s.errFlags)
    (hcode : t.errCode = s.errCode) : RecordOk t :=
  ⟨by rw [hflags, hcode]; exact h.clear, by rw [hflags, hcode]; exact h.named⟩

theorem recordOk_of_clear {s : State} (hflags : s.errFlags = 0) (hcode : s.errCode = 0) : RecordOk s :=
  ⟨iff_of_true hcode hflags, fun h => absurd hcode h⟩

theorem ne_zero_of_getLsbD {f : BitVec 9} {i : Nat} (h : f.getLsbD i = true) : f ≠ 0 := by
  rintro rfl
  simp at h

/-- Raising causes keeps the record: an ERR_CODE stays with its flag, and one that is taken is the code of a cause
raised. -/
theorem recordOk_raiseAll {s : State} (h : RecordOk s) (es : List Cause) : RecordOk (raiseAll es s) := by
  by_cases hes : es = []
  · rw [hes, raiseAll_nil]
    exact h
  have hnamed : (raiseAll es s).errCode ≠ 0 ∧
      (raiseAll es s).errFlags.getLsbD ((raiseAll es s).errCode.toNat - 1) = true := by
    rw [raiseAll_errCode, raiseAll_errFlags]
    by_cases hcode : s.errCode = 0
    · obtain ⟨e, he⟩ := Option.isSome_iff_exists.1 (topCause_isSome hes)
      rw [hcode, codeAfter_zero_of_topCause he, getLsbD_flagsAfter_code]
      exact ⟨code_ne_zero e, by simp [topCause_mem he]⟩
    · rw [codeAfter_of_ne_zero hcode, getLsbD_flagsAfter, h.named hcode]
      exact ⟨hcode, rfl⟩
  obtain ⟨hcode, hflag⟩ := hnamed
  exact ⟨iff_of_false hcode (ne_zero_of_getLsbD hflag), fun _ => hflag⟩

/-! ## What BUILD finds before it starts a press -/

theorem inputErrors_of_buildErrors {s : State} (h : s.buildErrors = []) : s.inputErrors = [] :=
  inputErrors_eq_nil_iff.2 fun e _ => by simp [h]

theorem cadenceErrors_of_buildErrors {s : State} (h : s.buildErrors = []) : s.cfg.cadenceErrors = [] :=
  List.eq_nil_iff_forall_not_mem.2 fun e he =>
    List.eq_nil_iff_forall_not_mem.1 (inputErrors_of_buildErrors h) e (mem_inputErrors_iff.2 (.inr (.inl he)))

theorem tuneOk_of_buildErrors {s : State} (h : s.buildErrors = []) : s.cfg.tuneOk = true := by
  by_contra htune
  exact List.eq_nil_iff_forall_not_mem.1 (inputErrors_of_buildErrors h) .configError
    (mem_inputErrors_iff.2 (.inl ⟨Bool.eq_false_of_not_eq_true htune, rfl⟩))

theorem sps_pos_of_buildErrors {s : State} (h : s.buildErrors = []) : 0 < s.cfg.sps.toNat := by
  refine Nat.pos_of_ne_zero fun hzero => ?_
  have hsps : s.cfg.sps = 0 := BitVec.eq_of_toNat_eq hzero
  exact List.eq_nil_iff_forall_not_mem.1 (inputErrors_of_buildErrors h) .configError
    (mem_inputErrors_iff.2 (.inr (.inr (.inl ⟨.inr hsps, rfl⟩))))

theorem total_lt_of_buildErrors {s : State} (h : s.buildErrors = []) {period : F64} {n : Nat}
    (hcadence : s.cfg.cadence = some (period, n)) : s.total n < 2 ^ 64 := by
  by_contra htotal
  have hmem : .lengthRange ∈ s.buildErrors :=
    lengthRange_mem_buildErrors_iff.2 ⟨inputErrors_of_buildErrors h, period, n, hcadence, not_lt.1 htotal⟩
  simp [h] at hmem

/-- A packet of a legal build is far below 2^64 samples (42_framer.md R177). -/
theorem pkt_lt {s : State} (hb : s.build.legal = true) (hp : PayloadOk s.build.N s.payload) : s.pkt < 2 ^ 64 := by
  obtain ⟨-, -, -, -, -, hN⟩ := bounds_of_legal hb
  have hcount := hp.count
  have hbits : 8 * ((s.payload.n + 1) / 2) ≤ 2 ^ 18 := by omega
  calc s.pkt = 8 * ((s.payload.n + 1) / 2) * s.cfg.sps.toNat := pkt_eq s
    _ ≤ 2 ^ 18 * 2 ^ 32 := Nat.mul_le_mul hbits s.cfg.sps.isLt.le
    _ < 2 ^ 64 := by norm_num1

theorem le_length_of_payloadOk {cap : Nat} {p : Payload} (h : PayloadOk cap p) : p.n ≤ p.nib.length :=
  h.cells ▸ h.count

/-- The results of a BUILD obey the length law of 42_framer.md R172. -/
theorem resultsOk_built {s : State} {period : F64} {n : Nat} (hb : s.build.legal = true)
    (hp : PayloadOk s.build.N s.payload) (herr : s.buildErrors = []) (hcadence : s.cfg.cadence = some (period, n)) :
    ResultsOk s.build (builtResults period n s) := by
  obtain ⟨-, hP, -⟩ := bounds_of_legal hb
  have hn := cadence_lt hcadence
  have htotal := total_lt_of_buildErrors herr hcadence
  have hpkt := pkt_lt hb hp
  have hgap : gapLen s.pkt n < 2 ^ 64 := by unfold gapLen; omega
  refine ⟨toNat_ftw_lt hP _ _, toNat_ftw_lt hP _ _, ?_, ?_⟩
  · simp only [builtResults, BitVec.toNat_ofNat]
    omega
  · simp only [builtResults, BitVec.toNat_ofNat, Nat.mod_eq_of_lt htotal, Nat.mod_eq_of_lt hpkt,
      Nat.mod_eq_of_lt hgap]
    rfl

/-- The snapshot of a press that is not empty (42_framer.md R181). -/
theorem snapshotOk_built {s : State} {period : F64} {n : Nat} (hb : s.build.legal = true)
    (hp : PayloadOk s.build.N s.payload) (herr : s.buildErrors = []) (hcadence : s.cfg.cadence = some (period, n))
    (hne : s.total n ≠ 0) : SnapshotOk s.build (s.snapshot n) where
  sps := sps_pos_of_buildErrors herr
  unit := Nat.pos_of_ne_zero fun h => hne (mul_eq_zero_of_right _ h)
  pkt := by
    change s.payload.bitCount * s.cfg.sps.toNat = s.payload.bits.length * s.cfg.sps.toNat
    rw [length_bits (le_length_of_payloadOk hp)]
  fits := Nat.le_add_right _ _
  total := rfl
  bound := total_lt_of_buildErrors herr hcadence
  ftw0 := toNat_ftw_lt (bounds_of_legal hb).2.1 _ _
  ftw1 := toNat_ftw_lt (bounds_of_legal hb).2.1 _ _

/-! ## The engine -/

/-- While idle the engine owes only its accumulator and its position. -/
theorem engineOk_of_idle {s : State} (hidle : s.status.busy = false)
    (hacc : s.engine.acc.toNat < 2 ^ s.build.P) (hpos : s.engine.k.toNat ≤ s.results.totalSamples.toNat) :
    EngineOk s where
  acc := hacc
  position := hpos
  snap h := by simp [hidle] at h
  total h := by simp [hidle] at h
  left h := by simp [hidle] at h
  notDone h := by simp [hidle] at h

/-! ## The invariant without its clause about the reset input -/

/-- The parts of `Inv` that the registers and elements of the block decide. -/
structure CoreOk (s : State) : Prop where
  build : s.build.legal = true
  payload : PayloadOk s.build.N s.payload
  record : RecordOk s
  results : ResultsOk s.build s.results
  engine : EngineOk s

theorem inv_iff (s : State) : Inv s ↔ CoreOk s ∧ HeldInReset s :=
  ⟨fun h => ⟨⟨h.build, h.payload, h.record, h.results, h.engine⟩, h.held⟩,
    fun ⟨h, hheld⟩ => ⟨h.build, h.payload, h.record, h.results, h.engine, hheld⟩⟩

theorem payloadOk_reset (cap : Nat) : PayloadOk cap (.reset cap) :=
  ⟨List.length_replicate, Nat.zero_le cap, iff_of_true rfl rfl⟩

/-- A block of a legal build after reset. -/
theorem coreOk_of_reset {s : State} (hb : s.build.legal = true) (hpayload : s.payload = .reset s.build.N)
    (hflags : s.errFlags = 0) (hcode : s.errCode = 0) (hresults : s.results = .reset) (hengine : s.engine = .reset)
    (hstatus : s.status = .reset) : CoreOk s where
  build := hb
  payload := hpayload ▸ payloadOk_reset _
  record := recordOk_of_clear hflags hcode
  results := by
    rw [hresults]
    exact ⟨Nat.two_pow_pos _, Nat.two_pow_pos _, by decide, rfl⟩
  engine := engineOk_of_idle (by rw [hstatus]; rfl) (by rw [hengine]; exact Nat.two_pow_pos _)
    (by rw [hengine, hresults]; exact le_rfl)

/-- The registers that the invariant does not name may change. -/
theorem coreOk_congr {s t : State} (h : CoreOk s) (hb : t.build = s.build) (hp : t.payload = s.payload)
    (hflags : t.errFlags = s.errFlags) (hcode : t.errCode = s.errCode) (hr : t.results = s.results)
    (he : t.engine = s.engine) (hs : t.status = s.status) : CoreOk t where
  build := hb ▸ h.build
  payload := hb ▸ hp ▸ h.payload
  record := h.record.congr hflags hcode
  results := hb ▸ hr ▸ h.results
  engine := by
    obtain ⟨hacc, hpos, hsnap, htotal, hleft, hdone⟩ := h.engine
    constructor <;> simpa only [he, hb, hr, hs]

theorem coreOk_raiseAll {s : State} (h : CoreOk s) (es : List Cause) : CoreOk (raiseAll es s) :=
  ⟨h.build, h.payload, recordOk_raiseAll h.record es, h.results,
    ⟨h.engine.acc, h.engine.position, h.engine.snap, h.engine.total, h.engine.left, h.engine.notDone⟩⟩

theorem coreOk_clearRecord {s : State} (h : CoreOk s) : CoreOk (clearRecord s) :=
  ⟨h.build, h.payload, recordOk_of_clear rfl rfl, h.results,
    ⟨h.engine.acc, h.engine.position, h.engine.snap, h.engine.total, h.engine.left, fun _ => rfl⟩⟩

/-- A press that starts: it is empty and done, or BUSY before its first sample. -/
theorem engineOk_built {s : State} {period : F64} {n : Nat} (h : CoreOk s) (hidle : s.status.busy = false)
    (herr : s.buildErrors = []) (hcadence : s.cfg.cadence = some (period, n)) :
    EngineOk (buildPress period n (acceptBuild s)) := by
  have htotal := Nat.mod_eq_of_lt (total_lt_of_buildErrors herr hcadence)
  rw [buildPress_acceptBuild period n hidle]
  by_cases hne : s.total n = 0
  · exact engineOk_of_idle (by simp [hne]) (Nat.two_pow_pos _) (Nat.zero_le _)
  · constructor <;> simp only [hne, if_false, decide_false, builtResults, BitVec.toNat_ofNat, htotal]
    case snap => exact fun _ => snapshotOk_built h.build h.payload herr hcadence hne
    case left => exact fun _ => Nat.pos_of_ne_zero hne
    case total => exact fun _ => rfl
    case notDone => exact fun _ => trivial
    case acc => exact Nat.two_pow_pos _
    case position => exact Nat.zero_le _

/-- Every accepted guarded operation keeps the invariant. -/
theorem coreOk_of_guarded {g : Guarded} {s t : State} (hlead : g.Leads s t) (hidle : s.status.busy = false)
    (h : CoreOk s) : CoreOk t := by
  obtain ⟨-, hP, -⟩ := bounds_of_legal h.build
  have hengine : ∀ u : State, u.status.busy = s.status.busy → u.engine = s.engine → u.build = s.build →
      u.results.totalSamples = s.results.totalSamples → EngineOk u := fun u hbusy he hb hr =>
    engineOk_of_idle (hbusy.trans hidle) (by rw [he, hb]; exact h.engine.acc) (by rw [he, hr]; exact h.engine.position)
  cases hlead with
  | clrpay =>
    exact ⟨h.build, (clear_cleared h.payload.cells).payloadOk, h.record.congr rfl rfl, h.results,
      hengine _ rfl rfl rfl rfl⟩
  | pushc c =>
    exact ⟨h.build, feed_payloadOk h.payload c,
      recordOk_raiseAll (s := { clearMeta s with payload := _ }) (h.record.congr rfl rfl) _, h.results,
      hengine _ rfl rfl rfl rfl⟩
  | tuned =>
    exact ⟨h.build, h.payload, h.record.congr rfl rfl,
      ⟨toNat_ftw_lt hP _ _, toNat_ftw_lt hP _ _, h.results.s2s, h.results.total⟩, hengine _ rfl rfl rfl rfl⟩
  | tuneRefused => exact coreOk_raiseAll h _
  | built period n herr hcadence =>
    have hen := engineOk_built h hidle herr hcadence
    have hres := resultsOk_built h.build h.payload herr hcadence
    rw [buildPress_acceptBuild period n hidle] at hen ⊢
    exact ⟨h.build, h.payload, h.record.congr rfl rfl, hres, hen⟩
  | buildRefused =>
    exact coreOk_raiseAll (s := acceptBuild s)
      ⟨h.build, h.payload, h.record.congr rfl rfl, h.results, hengine _ rfl rfl rfl rfl⟩ _
  | resolved period n herr hcadence =>
    have hn := cadence_lt hcadence
    refine ⟨h.build, h.payload, h.record.congr rfl rfl,
      ⟨h.results.ftw0, h.results.ftw1, ?_, h.results.total⟩, hengine _ rfl rfl rfl rfl⟩
    simp only [writeCadence_results, BitVec.toNat_ofNat]
    omega
  | resolveRefused => exact coreOk_raiseAll h _
  | cfgWritten x v =>
    exact ⟨h.build, h.payload, h.record.congr rfl rfl, h.results, hengine _ rfl rfl rfl rfl⟩

/-- Every effect of a host operation keeps the invariant. -/
theorem coreOk_of_effect {f : Effect} {s t : State} (hlead : f.Leads s t) (h : CoreOk s) : CoreOk t := by
  cases hlead with
  | nothing => exact h
  | raise e => exact coreOk_raiseAll h [e]
  | clearRecord => exact coreOk_clearRecord h
  | reset => exact coreOk_of_reset h.build rfl rfl rfl rfl rfl rfl
  | setIrqEn v => exact coreOk_congr h rfl rfl rfl rfl rfl rfl rfl
  | setByteSel v => exact coreOk_congr h rfl rfl rfl rfl rfl rfl rfl
  | rejected g hbusy => exact coreOk_raiseAll h _
  | accepted g hidle hg => exact coreOk_of_guarded hg hidle h

theorem coreOk_respond {s : State} (h : CoreOk s) (r : Response) : CoreOk (respond r s) :=
  coreOk_congr h rfl rfl rfl rfl rfl rfl rfl

/-! ## The engine step -/

theorem acc_lt_of_produce {b : Build} {p : Snapshot} {k : Nat} {acc a : Word} {e : Emission} (hb : b.legal = true)
    (hacc : acc.toNat < 2 ^ b.P) (h : produce b p k acc = .ok (e, a)) : a.toNat < 2 ^ b.P := by
  obtain ⟨-, ⟨-, bit, x, -, ha, -⟩ | ⟨-, ha, -⟩⟩ := produce_cases h
  · rw [ha]
    exact toNat_nextAcc_lt hb p _ acc bit
  · rwa [ha]

theorem last_of_produce {b : Build} {p : Snapshot} {k : Nat} {acc a : Word} {e : Emission}
    (h : produce b p k acc = .ok (e, a)) : e.last = (k + 1 == p.total) := by
  obtain ⟨-, ⟨-, -, -, -, -, -, rfl⟩ | ⟨-, -, rfl⟩⟩ := produce_cases h <;> rfl

theorem coreOk_emit {s : State} {e : Emission} {a : Word} (h : CoreOk s) (hbusy : s.status.busy = true)
    (hprod : produce s.build s.engine.snap s.engine.k.toNat s.engine.acc = .ok (e, a)) : CoreOk (emit e a s) := by
  have hleft := h.engine.left hbusy
  have htotal := h.engine.total hbusy
  have hacc := acc_lt_of_produce h.build h.engine.acc hprod
  have hone : (1 : DWord).toNat = 1 := rfl
  have hk : (s.engine.k + 1).toNat = s.engine.k.toNat + 1 := by
    have := s.results.totalSamples.isLt
    rw [BitVec.toNat_add, hone]
    omega
  have hpos : (emit e a s).engine.k.toNat ≤ (emit e a s).results.totalSamples.toNat := by
    simp only [emit_engine, emit_results, hk]
    omega
  refine ⟨h.build, h.payload, h.record.congr rfl rfl, h.results, ?_⟩
  by_cases hend : s.engine.k.toNat + 1 = s.engine.snap.total
  · have hlast : e.last = true := by rw [last_of_produce hprod, hend, beq_self_eq_true]
    exact engineOk_of_idle (by rw [emit_status, if_pos hlast]) hacc hpos
  · have hlast : e.last = false := by rw [last_of_produce hprod, beq_eq_false_iff_ne]; exact hend
    have hstatus : (emit e a s).status = s.status := by rw [emit_status, hlast, if_neg Bool.false_ne_true]
    refine ⟨hacc, hpos, fun _ => h.engine.snap hbusy, fun _ => htotal, fun _ => ?_, fun _ => ?_⟩
    · simp only [emit_engine, hk]
      omega
    · rw [hstatus]
      exact h.engine.notDone hbusy

/-! ## The reset input -/

theorem Guarded.Leads.resetPin {g : Guarded} {s t : State} (h : g.Leads s t) (hidle : s.status.busy = false) :
    t.resetPin = s.resetPin := by
  cases h with
  | built period n _ _ => rw [buildPress_acceptBuild period n hidle]
  | _ => rfl

theorem Effect.Leads.resetPin {f : Effect} {s t : State} (h : f.Leads s t) : t.resetPin = s.resetPin := by
  cases h with
  | accepted g hidle hg => exact hg.resetPin hidle
  | _ => rfl

theorem heldInReset_of_released {s : State} (h : s.resetPin = false) : HeldInReset s :=
  fun hpin => by simp [h] at hpin

/-- Under the reset input the block stays in the reset state (70_reset_and_hazards.md R270). -/
theorem heldInReset_of_event {e : Event} {s t : State} (hlead : e.Leads s t) (h : HeldInReset s) :
    HeldInReset t := by
  cases hlead with
  | unanswered page a htest => exact fun hpin => congrArg (respond .none) (h hpin)
  | answered a hpin hf => exact heldInReset_of_released (hf.resetPin.trans hpin)
  | nothingAccepted => exact h
  | accepted e acc hpin => exact heldInReset_of_released hpin
  | asserted => exact fun _ => rfl
  | released => exact heldInReset_of_released rfl
  | notHeld hpin => exact h

/-- Every event keeps the invariant. -/
theorem inv_of_event {e : Event} {s t : State} (hlead : e.Leads s t) (h : Inv s) : Inv t := by
  obtain ⟨hcore, hheld⟩ := (inv_iff s).1 h
  refine (inv_iff t).2 ⟨?_, heldInReset_of_event hlead hheld⟩
  cases hlead with
  | unanswered page a htest => exact coreOk_respond hcore _
  | answered a hpin hf => exact coreOk_respond (coreOk_of_effect hf hcore) _
  | nothingAccepted => exact hcore
  | accepted e acc hpin hbusy hprod => exact coreOk_emit hcore hbusy hprod
  | asserted => exact coreOk_of_reset h.build rfl rfl rfl rfl rfl rfl
  | released => exact coreOk_of_reset h.build rfl rfl rfl rfl rfl rfl
  | notHeld => exact hcore

theorem inv_inputs {s : State} (h : Inv s) (rest : List Event) : Inv { s with inputs := rest } := by
  obtain ⟨hcore, hheld⟩ := (inv_iff s).1 h
  refine (inv_iff _).2 ⟨coreOk_congr hcore rfl rfl rfl rfl rfl rfl rfl, fun hpin => ?_⟩
  exact congrArg (fun u : State => { u with inputs := rest }) (hheld hpin)

/-! ## The step goes on -/

/-- From a state of the invariant every event goes on: an engine step has its bit and its table entry. -/
theorem perform_goes {s : State} (h : Inv s) (e : Event) : Goes (perform e s) := by
  cases e with
  | host page a =>
    rw [perform]
    obtain ⟨-, hno⟩ | ⟨-, -, hyes⟩ := hostAccess_cases page a s
    · exact ⟨_, hno⟩
    · exact ⟨_, hyes.trans (exec_eq _ s)⟩
  | resetAssert => exact ⟨_, rfl⟩
  | resetRelease => exact ⟨_, rfl⟩
  | accept =>
    rw [perform, sinkAccept]
    split
    · exact ⟨s, rfl⟩
    · rw [engineStep, State.offer]
      cases hbusy : s.status.busy
      · exact ⟨s, rfl⟩
      · obtain ⟨a, hprod, -⟩ :=
          produce_of_snapshotOk h.build (h.engine.snap hbusy) s.engine.k.toNat s.engine.acc
        rw [hprod]
        exact ⟨_, rfl⟩

end Sys2Proof.Machine
end

section
/-! The statements about the invariant of the machine. -/

open Sys2Proof Sys2Proof.Machine

/-- Settles O54: every event keeps the parts of the invariant. -/
theorem stepKeepsInvariant : Obligations.StepKeepsInvariant :=
  fun _ _ hs hstep => step_keeps (fun _ rest h => inv_inputs h rest) (fun _ _ _ h hlead => inv_of_event hlead h) hs hstep

/-- Settles O55: the host always goes on, and the engine has a usable snapshot. -/
theorem invariantStepGoesOn : Obligations.InvariantStepGoesOn := by
  intro s h
  cases hinputs : s.inputs with
  | nil => exact ⟨s, step_nil hinputs⟩
  | cons e rest =>
    rw [step_cons hinputs]
    exact perform_goes (inv_inputs h rest) e

/-- Settles O53: the reference build is legal, and no VALID bit is set after reset. -/
theorem resetSatisfiesInvariant : Obligations.ResetSatisfiesInvariant := by
  refine ⟨(inv_iff _).2 ⟨coreOk_of_reset (by decide) rfl rfl rfl rfl rfl rfl, heldInReset_of_released rfl⟩, ?_, ?_, ?_⟩
  · exact fun h => nomatch h
  · exact fun h => nomatch h
  · exact fun h => nomatch h

/-- Settles O28: the word is the rounded quotient mod 2^P, and `rintScaled` rounds to the nearest. -/
theorem tuningWordNearest : Obligations.TuningWordNearest :=
  fun p _ _ neg mag hp h => ⟨rintScaled p neg mag, nearestEven_rintScaled p neg mag, toNat_ftw hp h⟩

end

section
/-! SUPPORT. What is sticky (10_state.md R35, R36, R38): the error record but for CLRST and reset, CFG_WRITTEN but for
reset, and the configuration while BUSY = 1. -/

namespace Sys2Proof.Machine

/-! ## The error record -/

/-- The error record goes on: no flag is cleared, and an ERR_CODE that is not 0 stays. -/
def RecordKept (s t : State) : Prop :=
  (∀ b, s.errFlags.getLsbD b = true → t.errFlags.getLsbD b = true) ∧ (s.errCode ≠ 0 → t.errCode = s.errCode)

theorem recordKept_of_eq {s t : State} (hflags : t.errFlags = s.errFlags) (hcode : t.errCode = s.errCode) :
    RecordKept s t := ⟨fun _ h => hflags ▸ h, fun _ => hcode⟩

theorem recordKept_raiseAll (es : List Cause) (s : State) : RecordKept s (raiseAll es s) := by
  refine ⟨fun b h => ?_, fun hcode => ?_⟩
  · rw [raiseAll_errFlags, getLsbD_flagsAfter, h, Bool.true_or]
  · rw [raiseAll_errCode, codeAfter_of_ne_zero hcode]

theorem recordKept_of_guarded {g : Guarded} {s t : State} (h : g.Leads s t) (hidle : s.status.busy = false) :
    RecordKept s t := by
  cases h with
  | pushc c => exact recordKept_raiseAll _ { clearMeta s with payload := (s.payload.feed s.build.N c).1 }
  | tuneRefused => exact recordKept_raiseAll _ s
  | buildRefused => exact recordKept_raiseAll _ (acceptBuild s)
  | resolveRefused => exact recordKept_raiseAll _ s
  | built period n _ _ =>
    rw [buildPress_acceptBuild period n hidle]
    exact recordKept_of_eq rfl rfl
  | _ => exact recordKept_of_eq rfl rfl

theorem recordKept_of_effect {f : Effect} {s t : State} (h : f.Leads s t) (hreset : f ≠ .reset)
    (hclear : f ≠ .clearRecord) : RecordKept s t := by
  cases h with
  | reset => exact absurd rfl hreset
  | clearRecord => exact absurd rfl hclear
  | raise e => exact recordKept_raiseAll _ s
  | rejected g hbusy => exact recordKept_raiseAll _ s
  | accepted g hidle hg => exact recordKept_of_guarded hg hidle
  | _ => exact recordKept_of_eq rfl rfl

theorem recordKept_of_event {e : Event} {s t : State} (h : e.Leads s t) (he : e.clears = false) : RecordKept s t := by
  cases h with
  | answered a hpin hf =>
    simp only [Event.clears, Bool.or_eq_false_iff, beq_eq_false_iff_ne] at he
    obtain ⟨hclrst, hsrst⟩ := he
    have hplain := plainWrite_accessInstr a
    obtain ⟨hflags, hcode⟩ :=
      recordKept_of_effect hf (instrEffect_ne_reset hplain hsrst) (instrEffect_ne_clearRecord hplain hclrst)
    exact ⟨hflags, hcode⟩
  | asserted => cases he
  | released => cases he
  | notHeld => cases he
  | _ => exact recordKept_of_eq rfl rfl

/-! ## CFG_WRITTEN and the configuration -/

/-- No CFG_WRITTEN bit is cleared, and the configuration stands while BUSY = 1. -/
def CfgKept (s t : State) : Prop :=
  (∀ b, s.cfg.written.getLsbD b = true → t.cfg.written.getLsbD b = true) ∧ (s.status.busy = true → t.cfg = s.cfg)

theorem cfgKept_of_eq {s t : State} (h : t.cfg = s.cfg) : CfgKept s t := ⟨fun _ hb => h ▸ hb, fun _ => h⟩

theorem cfgKept_acceptCfg {s : State} (hidle : s.status.busy = false) (x : CfgReg) (v : Word) :
    CfgKept s (acceptCfg x v s) := by
  refine ⟨fun b hb => ?_, fun hbusy => by simp [hidle] at hbusy⟩
  rw [acceptCfg, getLsbD_markWritten _ _ (BitVec.lt_of_getLsbD hb), store_written, hb, Bool.true_or]

theorem cfgKept_of_guarded {g : Guarded} {s t : State} (h : g.Leads s t) (hidle : s.status.busy = false) :
    CfgKept s t := by
  cases h with
  | cfgWritten x v => exact cfgKept_acceptCfg hidle x v
  | built period n _ _ =>
    rw [buildPress_acceptBuild period n hidle]
    exact cfgKept_of_eq rfl
  | _ => exact cfgKept_of_eq rfl

theorem cfgKept_of_effect {f : Effect} {s t : State} (h : f.Leads s t) (hreset : f ≠ .reset) : CfgKept s t := by
  cases h with
  | reset => exact absurd rfl hreset
  | accepted g hidle hg => exact cfgKept_of_guarded hg hidle
  | _ => exact cfgKept_of_eq rfl

theorem cfgKept_of_event {e : Event} {s t : State} (h : e.Leads s t) (he : e.resets = false) : CfgKept s t := by
  cases h with
  | answered a hpin hf =>
    have hsrst : accessInstr a ≠ .srst := by simpa [Event.resets] using he
    obtain ⟨hwritten, hcfg⟩ := cfgKept_of_effect hf (instrEffect_ne_reset (plainWrite_accessInstr a) hsrst)
    exact ⟨hwritten, hcfg⟩
  | asserted => cases he
  | released => cases he
  | notHeld => cases he
  | _ => exact cfgKept_of_eq rfl

end Sys2Proof.Machine
end

section
/-! The statements about what is sticky. -/

open Sys2Proof Sys2Proof.Machine

/-- Settles O51: every effect but those of CLRST and SRST only raises causes. -/
theorem errorRecordIsSticky : Obligations.ErrorRecordIsSticky := by
  intro s t e rest hinputs he hstep
  rw [step_cons hinputs] at hstep
  obtain ⟨hflags, hcode⟩ := recordKept_of_event (perform_leads hstep) he
  exact ⟨hflags, hcode⟩

/-- Settles O52: a configuration write only sets its bit, and is rejected while BUSY = 1. -/
theorem onlyResetClearsCfgWritten : Obligations.OnlyResetClearsCfgWritten := by
  intro s t e rest hinputs he hstep
  rw [step_cons hinputs] at hstep
  obtain ⟨hwritten, hcfg⟩ := cfgKept_of_event (perform_leads hstep) he
  exact ⟨hwritten, hcfg⟩

end

section
/-! SUPPORT. The VALID bits through every operation (10_state.md R34): which registers a result is computed from
(R47), and that whatever changes one of them clears the bit. -/

namespace Sys2Proof.Machine

/-! ## Which registers a command reads -/

/-- The two configurations hold the same value in a register, and the same CFG_WRITTEN bit for it. -/
def AgreesAt (c d : CfgRegs) (y : CfgReg) : Prop :=
  d.read y = c.read y ∧ ∀ b, writtenBit y = some b → d.written.getLsbD b = c.written.getLsbD b

theorem writtenBit_lt {y : CfgReg} {b : Nat} (h : writtenBit y = some b) : b < 14 := by
  cases y <;> cases h <;> decide

/-- Each register has a CFG_WRITTEN bit of its own. -/
theorem writtenBit_inj {x y : CfgReg} {b : Nat} (hx : writtenBit x = some b) (hy : writtenBit y = some b) : y = x := by
  cases x <;> cases hx <;> cases y <;> trivial

/-- A write to one register leaves every other as it was. -/
theorem agreesAt_of_ne {x y : CfgReg} (h : y ≠ x) (c : CfgRegs) (v : Word) :
    AgreesAt c ((c.store x v).markWritten x) y := by
  refine ⟨by rw [read_markWritten, read_store_of_ne h], fun b hb => ?_⟩
  have hbit : writtenBit x ≠ some b := fun hx => h (writtenBit_inj hx hb)
  rw [getLsbD_markWritten _ _ (writtenBit_lt hb), store_written, beq_eq_false_iff_ne.2 hbit, Bool.or_false]

section
variable {c d : CfgRegs}

/-- A 64-bit value and its written bit, from the registers of its halves. -/
theorem pair_congr (lo hi : CfgReg) {b : Nat} (hlo : AgreesAt c d lo) (hhi : AgreesAt c d hi)
    (hblo : writtenBit lo = some b) (hbhi : writtenBit hi = some (b + 1)) :
    f64 (reg64 (d.read hi) (d.read lo)) = f64 (reg64 (c.read hi) (c.read lo)) ∧ d.pairWritten b = c.pairWritten b := by
  rw [hlo.1, hhi.1, CfgRegs.pairWritten, CfgRegs.pairWritten, hlo.2 b hblo, hhi.2 (b + 1) hbhi]
  exact ⟨rfl, rfl⟩

theorem cadenceSel_congr (h : AgreesAt c d .cadenceSel) : d.cadenceSel = c.cadenceSel := by
  have hwide : d.cadenceSel.setWidth 32 = c.cadenceSel.setWidth 32 := h.1
  have hnat := congrArg BitVec.toNat hwide
  rw [BitVec.toNat_setWidth, BitVec.toNat_setWidth] at hnat
  have hd := d.cadenceSel.isLt
  have hc := c.cadenceSel.isLt
  exact BitVec.eq_of_toNat_eq (by omega)

theorem fs_congr (hlo : AgreesAt c d .fsLo) (hhi : AgreesAt c d .fsHi) : d.fs = c.fs ∧ d.fsOk = c.fsOk := by
  have hpair : d.fs = c.fs ∧ d.fsWritten = c.fsWritten := pair_congr .fsLo .fsHi hlo hhi rfl rfl
  obtain ⟨hfs, hwritten⟩ := hpair
  rw [CfgRegs.fsOk, CfgRegs.fsOk, hfs, hwritten]
  exact ⟨rfl, rfl⟩

/-- RESOLVE reads only the registers whose writes clear RESOLVE_VALID. -/
theorem cadence_congr (h : ∀ y, feedsCadence y = true → AgreesAt c d y) :
    d.cadenceErrors = c.cadenceErrors ∧ d.cadence = c.cadence := by
  obtain ⟨hfs, hfsOk⟩ := fs_congr (h .fsLo rfl) (h .fsHi rfl)
  have hsel := cadenceSel_congr (h .cadenceSel rfl)
  have hpps : d.pps = c.pps ∧ d.ppsWritten = c.ppsWritten :=
    pair_congr .ppsLo .ppsHi (h .ppsLo rfl) (h .ppsHi rfl) rfl rfl
  have hper : d.period = c.period ∧ d.periodWritten = c.periodWritten :=
    pair_congr .periodLo .periodHi (h .periodLo rfl) (h .periodHi rfl) rfl rfl
  have hdef : d.defp = c.defp ∧ d.defpWritten = c.defpWritten :=
    pair_congr .defpLo .defpHi (h .defpLo rfl) (h .defpHi rfl) rfl rfl
  have hperiod : d.resolvePeriod = c.resolvePeriod := by
    simp only [CfgRegs.resolvePeriod, hsel, hpps, hper, hdef]
  have hcount : d.startToStart = c.startToStart := funext fun p => by
    simp only [CfgRegs.startToStart, hfs, hfsOk]
  constructor
  · simp only [CfgRegs.cadenceErrors, hperiod, hcount, hfsOk]
  · simp only [CfgRegs.cadence, hperiod, hcount]

/-- TUNE reads only the registers whose writes clear TUNE_VALID. -/
theorem tuning_congr (h : ∀ y, feedsTuning y = true → AgreesAt c d y) :
    d.tuneOk = c.tuneOk ∧ d.fs = c.fs ∧ d.f0 = c.f0 ∧ d.f1 = c.f1 := by
  obtain ⟨hfs, hfsOk⟩ := fs_congr (h .fsLo rfl) (h .fsHi rfl)
  have hf0 : d.f0 = c.f0 ∧ d.f0Written = c.f0Written :=
    pair_congr .f0Lo .f0Hi (h .f0Lo rfl) (h .f0Hi rfl) rfl rfl
  have hf1 : d.f1 = c.f1 ∧ d.f1Written = c.f1Written :=
    pair_congr .f1Lo .f1Hi (h .f1Lo rfl) (h .f1Hi rfl) rfl rfl
  refine ⟨?_, hfs, hf0.1, hf1.1⟩
  simp only [CfgRegs.tuneOk, hfsOk, hfs, hf0, hf1]

end

/-! ## The VALID bits through every operation -/

/-- BUILD's checks read the configuration and the payload. -/
theorem buildErrors_congr {s t : State} (hcfg : t.cfg = s.cfg) (hpayload : t.payload = s.payload) :
    t.buildErrors = s.buildErrors := by
  cases s
  cases t
  cases hcfg
  cases hpayload
  rfl

/-- What changes none of the registers, the payload and the results, and sets no VALID bit. -/
theorem ValidBitsOk.congr {s t : State} (h : ValidBitsOk s) (hcfg : t.cfg = s.cfg) (hpayload : t.payload = s.payload)
    (hresults : t.results = s.results) (hbuild : t.build = s.build)
    (hresolve : t.status.resolveValid = s.status.resolveValid) (htune : t.status.tuneValid = s.status.tuneValid)
    (hmeta : t.status.metaValid = s.status.metaValid) : ValidBitsOk t := by
  obtain ⟨hr, ht, hm⟩ := h
  constructor
  · rwa [hresolve, hcfg, hresults]
  · rwa [htune, hcfg, hresults, hbuild]
  · have herr := buildErrors_congr hcfg hpayload
    have hpkt : t.pkt = s.pkt := by rw [State.pkt, State.pkt, hcfg, hpayload]
    have htotal : t.total = s.total := funext fun n => by rw [State.total, State.total, hpkt, hcfg]
    rwa [hmeta, herr, hpkt, htotal, hcfg, hresults]

theorem validBitsOk_of_reset {s : State} (h : s.status = .reset) : ValidBitsOk s := by
  constructor <;> rw [h] <;> exact fun hvalid => nomatch hvalid

/-- A configuration write clears the bits of the results that are computed from its register. -/
theorem validBitsOk_acceptCfg {s : State} (h : ValidBitsOk s) (x : CfgReg) (v : Word) :
    ValidBitsOk (acceptCfg x v s) := by
  refine ⟨fun hvalid => ?_, fun hvalid => ?_, fun hvalid => nomatch hvalid⟩
  · simp only [acceptCfg, Status.afterCfgWrite, Bool.and_eq_true, Bool.not_eq_true'] at hvalid
    obtain ⟨hresolve, hfeeds⟩ := hvalid
    obtain ⟨herr, hcadence⟩ := cadence_congr (c := s.cfg) (d := (acceptCfg x v s).cfg) fun y hy =>
      agreesAt_of_ne (by rintro rfl; simp [hy] at hfeeds) s.cfg v
    rw [herr, hcadence]
    exact h.resolve hresolve
  · simp only [acceptCfg, Status.afterCfgWrite, Bool.and_eq_true, Bool.not_eq_true'] at hvalid
    obtain ⟨htune, hfeeds⟩ := hvalid
    obtain ⟨hok, hfs, hf0, hf1⟩ := tuning_congr (c := s.cfg) (d := (acceptCfg x v s).cfg) fun y hy =>
      agreesAt_of_ne (by rintro rfl; simp [hy] at hfeeds) s.cfg v
    rw [hok, hfs, hf0, hf1]
    exact h.tune htune

theorem validBitsOk_of_guarded {g : Guarded} {s t : State} (hlead : g.Leads s t) (hidle : s.status.busy = false)
    (h : ValidBitsOk s) : ValidBitsOk t := by
  cases hlead with
  | clrpay => exact ⟨h.resolve, h.tune, fun hvalid => nomatch hvalid⟩
  | pushc c => exact ⟨h.resolve, h.tune, fun hvalid => nomatch hvalid⟩
  | tuned hok => exact ⟨h.resolve, fun _ => ⟨hok, rfl, rfl⟩, h.metadata⟩
  | tuneRefused => exact h.congr rfl rfl rfl rfl rfl rfl rfl
  | built period n herr hcadence =>
    rw [buildPress_acceptBuild period n hidle]
    exact ⟨fun _ => ⟨period, n, cadenceErrors_of_buildErrors herr, hcadence, rfl, rfl⟩,
      fun _ => ⟨tuneOk_of_buildErrors herr, rfl, rfl⟩,
      fun _ => ⟨period, n, herr, hcadence, rfl, rfl, rfl, rfl, rfl⟩⟩
  | buildRefused => exact ⟨h.resolve, h.tune, fun hvalid => nomatch hvalid⟩
  | resolved period n herr hcadence => exact ⟨fun _ => ⟨period, n, herr, hcadence, rfl, rfl⟩, h.tune, h.metadata⟩
  | resolveRefused => exact h.congr rfl rfl rfl rfl rfl rfl rfl
  | cfgWritten x v => exact validBitsOk_acceptCfg h x v

theorem validBitsOk_of_effect {f : Effect} {s t : State} (hlead : f.Leads s t) (h : ValidBitsOk s) :
    ValidBitsOk t := by
  cases hlead with
  | reset => exact validBitsOk_of_reset rfl
  | accepted g hidle hg => exact validBitsOk_of_guarded hg hidle h
  | _ => exact h.congr rfl rfl rfl rfl rfl rfl rfl

theorem validBitsOk_of_event {e : Event} {s t : State} (hlead : e.Leads s t) (h : ValidBitsOk s) : ValidBitsOk t := by
  cases hlead with
  | answered a hpin hf => exact (validBitsOk_of_effect hf h).congr rfl rfl rfl rfl rfl rfl rfl
  | accepted e acc hpin hbusy hprod =>
    refine h.congr rfl rfl rfl rfl ?_ ?_ ?_ <;> rw [emit_status] <;> split <;> rfl
  | asserted => exact validBitsOk_of_reset rfl
  | released => exact validBitsOk_of_reset rfl
  | _ => exact h.congr rfl rfl rfl rfl rfl rfl rfl

end Sys2Proof.Machine
end

section
/-! The statement about the VALID bits. -/

open Sys2Proof Sys2Proof.Machine

/-- Settles O56: a result is written with its bit, and a change of what it is computed from clears the bit. -/
theorem stepKeepsValidBits : Obligations.StepKeepsValidBits :=
  fun _ _ hs hstep => step_keeps (fun _ _ h => h.congr rfl rfl rfl rfl rfl rfl rfl)
    (fun _ _ _ h hlead => validBitsOk_of_event hlead h) hs hstep

end

section
/-! SUPPORT. Two blocks that differ only in what no rule reads (93_implementation_defined.md U2, U3), through every
operation. -/

namespace Sys2Proof.Machine

/-! ## The payload by its stored digits -/

theorem bytes_congr {p : Payload} {l : List Nibble} (h : l.take p.n = p.nib.take p.n) :
    ({ p with nib := l } : Payload).bytes = p.bytes := by
  simp only [Payload.bytes, Payload.padded, Payload.digits, h]

theorem bits_congr {p : Payload} {l : List Nibble} (h : l.take p.n = p.nib.take p.n) :
    ({ p with nib := l } : Payload).bits = p.bits := by
  rw [Payload.bits, Payload.bits, bytes_congr h]

/-- The first n + 1 cells agree when the first n do and cell n is written, or does not exist. -/
theorem take_succ_set {l m : List Nibble} {n : Nat} (hlen : m.length = l.length) (h : m.take n = l.take n)
    (d : Nibble) : (m.set n d).take (n + 1) = (l.set n d).take (n + 1) := by
  simp [List.take_add_one, List.take_set_of_le, List.getElem?_set, hlen, h]

/-- One character does the same to two buffers that agree on the stored digits. -/
theorem feed_congr {cap : Nat} {p : Payload} {l : List Nibble} (hlen : l.length = p.nib.length)
    (h : l.take p.n = p.nib.take p.n) (c : Byte) :
    ∃ l', ({ p with nib := l } : Payload).feed cap c =
        ({ (p.feed cap c).1 with nib := l' }, (p.feed cap c).2) ∧
      l'.length = (p.feed cap c).1.nib.length ∧
      l'.take (p.feed cap c).1.n = (p.feed cap c).1.nib.take (p.feed cap c).1.n := by
  unfold Payload.feed
  cases charClass (lowerHex c) with
  | ws =>
    by_cases hbody : p.phase = .body
    · exact ⟨l, by simp only [hbody, if_true], by simpa [hbody] using hlen, by simpa [hbody] using h⟩
    · exact ⟨l, by simp only [hbody, if_false], by simpa [hbody] using hlen, by simpa [hbody] using h⟩
  | bad => exact ⟨l, rfl, hlen, h⟩
  | hex =>
    by_cases htrail : p.phase = .trail
    · exact ⟨l, by simp only [htrail, if_true], by simpa [htrail] using hlen, by simpa [htrail] using h⟩
    by_cases hfull : p.n = cap
    · exact ⟨l, by simp only [htrail, hfull, if_false, if_true], by simpa [htrail, hfull] using hlen,
        by simpa [htrail, hfull] using h⟩
    · refine ⟨l.set p.n (nibbleOf (lowerHex c)), ?_, ?_, ?_⟩ <;>
        simp only [htrail, hfull, if_false, Payload.push]
      · rw [List.length_set, List.length_set, hlen]
      · exact take_succ_set hlen h _

/-! ## The two blocks -/

/-- The block with other payload cells and another snapshot. -/
def withUnread (l : List Nibble) (q : Snapshot) (s : State) : State :=
  { s with payload := { s.payload with nib := l }, engine := { s.engine with snap := q } }

/-- The cells and the snapshot may stand in for those of the block: the stored digits agree, and while BUSY = 1 the
snapshot. -/
structure Unread (l : List Nibble) (q : Snapshot) (s : State) : Prop where
  cells : l.length = s.payload.nib.length
  digits : l.take s.payload.n = s.payload.nib.take s.payload.n
  snap : s.status.busy = true → q = s.engine.snap

theorem sameButUnread_iff {s s' : State} :
    SameButUnread s s' ↔ ∃ l q, s' = withUnread l q s ∧ Unread l q s := by
  constructor
  · rintro ⟨hrest, hcells, hdigits, hsnap⟩
    exact ⟨_, _, hrest, hcells, hdigits, hsnap⟩
  · rintro ⟨l, q, rfl, hcells, hdigits, hsnap⟩
    exact ⟨rfl, hcells, hdigits, hsnap⟩

section
variable {l : List Nibble} {q : Snapshot} {s : State}

/-- Every read answers alike: BYTE_DATA reads only stored digits. -/
theorem readOffset_withUnread (h : Unread l q s) (o : Offset) :
    readOffset (withUnread l q s) o = readOffset s o := by
  unfold readOffset
  cases regAt o with
  | none => rfl
  | some r =>
    cases r with
    | byteData =>
      change Payload.byteData { s.payload with nib := l } s.byteSel = s.payload.byteData s.byteSel
      rw [Payload.byteData, Payload.byteData, bytes_congr h.digits]
    | cfg x => rfl
    | _ => rfl

theorem instrAnswer_withUnread (h : Unread l q s) (i : Instr) :
    instrAnswer i (withUnread l q s) = instrAnswer i s := by
  cases i with
  | rd o bits => rw [instrAnswer, instrAnswer, readOffset_withUnread h]
  | _ => rfl

/-- The two blocks after BUILD: a press that starts has one snapshot, made of the stored digits. -/
theorem sameButUnread_build (hidle : s.status.busy = false) (h : Unread l q s) :
    SameButUnread (build s) (build (withUnread l q s)) := by
  have hsnap : (withUnread l q s).snapshot = s.snapshot := funext fun n => by
    have hbits : (withUnread l q s).payload.bits = s.payload.bits := bits_congr h.digits
    rw [State.snapshot, hbits]
    rfl
  obtain ⟨period, n, herr, hcadence, hs⟩ | ⟨hno, hs⟩ := build_cases s
  · have hs' := build_of_cadence (s := withUnread l q s) herr hcadence
    rw [hs, hs', buildPress_acceptBuild period n hidle, buildPress_acceptBuild period n (by exact hidle), hsnap]
    refine ⟨rfl, h.cells, h.digits, fun hbusy => ?_⟩
    have hne : s.total n ≠ 0 := of_decide_eq_true hbusy
    exact (if_neg hne).trans (if_neg hne).symm
  · have hs' : build (withUnread l q s) = raiseAll s.buildErrors (acceptBuild (withUnread l q s)) := by
      obtain ⟨period, n, herr, hcadence, -⟩ | ⟨-, hs'⟩ := build_cases (withUnread l q s)
      · exact absurd hno (by rintro (hne | hnone); exacts [hne herr, nomatch hnone.symm.trans hcadence])
      · exact hs'
    rw [hs, hs']
    exact ⟨rfl, h.cells, h.digits, h.snap⟩

theorem sameButUnread_guarded (g : Guarded) (hidle : s.status.busy = false) (h : Unread l q s) :
    SameButUnread (g.run s) (g.run (withUnread l q s)) := by
  cases g with
  | clrpay => exact ⟨rfl, h.cells, rfl, h.snap⟩
  | build => exact sameButUnread_build hidle h
  | writeCfg x v => exact ⟨rfl, h.cells, h.digits, h.snap⟩
  | pushc c =>
    obtain ⟨l', hfeed, hcells, hdigits⟩ := feed_congr (cap := s.build.N) h.cells h.digits c
    refine sameButUnread_iff.2 ⟨l', q, ?_, hcells, hdigits, h.snap⟩
    have hrun : pushChar c (withUnread l q s) =
        raiseAll (s.payload.feed s.build.N c).2
          { clearMeta (withUnread l q s) with payload := { (s.payload.feed s.build.N c).1 with nib := l' } } := by
      rw [pushChar, show (withUnread l q s).payload.feed (withUnread l q s).build.N c = _ from hfeed]
    exact hrun
  | tune =>
    change SameButUnread (if s.cfg.tuneOk then writeTuning s else raise .configError s)
      (if s.cfg.tuneOk then writeTuning (withUnread l q s) else raise .configError (withUnread l q s))
    split <;> exact ⟨rfl, h.cells, h.digits, h.snap⟩
  | resolve =>
    change SameButUnread (resolve s) (resolve (withUnread l q s))
    cases herr : s.cfg.cadenceErrors with
    | nil =>
      cases hcadence : s.cfg.cadence <;>
        simp only [resolve, withUnread, herr, hcadence] <;> exact ⟨rfl, h.cells, h.digits, h.snap⟩
    | cons e es => simp only [resolve, withUnread, herr]; exact ⟨rfl, h.cells, h.digits, h.snap⟩

theorem sameButUnread_effect (f : Effect) (h : Unread l q s) :
    SameButUnread (f.run s) (f.run (withUnread l q s)) := by
  cases f with
  | guarded g =>
    change SameButUnread (if s.status.busy then raise .busyReject s else g.run s)
      (if s.status.busy then raise .busyReject (withUnread l q s) else g.run (withUnread l q s))
    split
    · exact ⟨rfl, h.cells, h.digits, h.snap⟩
    next hidle => exact sameButUnread_guarded g (Bool.eq_false_of_not_eq_true hidle) h
  | reset => exact ⟨rfl, rfl, rfl, fun _ => rfl⟩
  | _ => exact ⟨rfl, h.cells, h.digits, h.snap⟩

theorem sameButUnread_respond {s s' : State} (h : SameButUnread s s') (r : Response) :
    SameButUnread (respond r s) (respond r s') :=
  ⟨congrArg (respond r) h.rest, h.cells, h.digits, h.snap⟩

/-! ## The step of two such blocks -/

/-- Both go on, to two such blocks again, or both stop with one fault. -/
def Alike (r r' : Result) : Prop :=
  (∃ t t', r = .next t ∧ r' = .next t' ∧ SameButUnread t t') ∨ ∃ f, r = .fault f ∧ r' = .fault f

/-- The sample on offer is the same, as the snapshot is while BUSY = 1. -/
theorem alike_engineStep (h : Unread l q s) : Alike (engineStep s) (engineStep (withUnread l q s)) := by
  cases hbusy : s.status.busy
  · have hoffer : s.offer = none := if_neg (by simp [hbusy])
    have hoffer' : (withUnread l q s).offer = none := if_neg (by simp [withUnread, hbusy])
    rw [engineStep, engineStep, hoffer, hoffer']
    exact .inl ⟨_, _, rfl, rfl, rfl, h.cells, h.digits, h.snap⟩
  · obtain rfl := h.snap hbusy
    have hoffer : (withUnread l s.engine.snap s).offer = s.offer := rfl
    rw [engineStep, engineStep, hoffer]
    cases s.offer with
    | none => exact .inl ⟨_, _, rfl, rfl, rfl, h.cells, h.digits, h.snap⟩
    | some x =>
      cases x with
      | error f => exact .inr ⟨f, rfl, rfl⟩
      | ok v => exact .inl ⟨_, _, rfl, rfl, rfl, h.cells, h.digits, fun _ => rfl⟩

theorem alike_perform (e : Event) (h : Unread l q s) : Alike (perform e s) (perform e (withUnread l q s)) := by
  cases e with
  | host page a =>
    change Alike (if s.resetPin || page != s.build.page then _ else _)
      (if s.resetPin || page != s.build.page then _ else _)
    split
    · exact .inl ⟨_, _, rfl, rfl, rfl, h.cells, h.digits, h.snap⟩
    · rw [exec_eq, exec_eq, instrAnswer_withUnread h]
      exact .inl ⟨_, _, rfl, rfl, sameButUnread_respond (sameButUnread_effect _ h) _⟩
  | accept =>
    change Alike (if s.resetPin then _ else _) (if s.resetPin then _ else _)
    split
    · exact .inl ⟨_, _, rfl, rfl, rfl, h.cells, h.digits, h.snap⟩
    · exact alike_engineStep h
  | resetAssert => exact .inl ⟨_, _, rfl, rfl, rfl, rfl, rfl, fun _ => rfl⟩
  | resetRelease =>
    change Alike (.next (if s.resetPin then _ else _)) (.next (if s.resetPin then _ else _))
    split
    · exact .inl ⟨_, _, rfl, rfl, rfl, rfl, rfl, fun _ => rfl⟩
    · exact .inl ⟨_, _, rfl, rfl, rfl, h.cells, h.digits, h.snap⟩

theorem alike_step (h : Unread l q s) : Alike (step s) (step (withUnread l q s)) := by
  cases hinputs : s.inputs with
  | nil =>
    rw [step_nil hinputs, step_nil (s := withUnread l q s) hinputs]
    exact .inl ⟨_, _, rfl, rfl, rfl, h.cells, h.digits, h.snap⟩
  | cons e rest =>
    rw [step_cons hinputs, step_cons (s := withUnread l q s) hinputs]
    exact alike_perform (s := { s with inputs := rest }) e ⟨h.cells, h.digits, h.snap⟩

end

end Sys2Proof.Machine
end

section
/-! The statement about what is never read. -/

open Sys2Proof Sys2Proof.Machine

/-- Settles O57: every operation reads only the stored digits, and the snapshot only while BUSY = 1. -/
theorem unspecifiedStateIsNeverRead : Obligations.UnspecifiedStateIsNeverRead := by
  intro s s' h
  obtain ⟨l, q, rfl, hunread⟩ := sameButUnread_iff.1 h
  obtain ⟨t, t', ht, ht', hsame⟩ | ⟨f, hf, hf'⟩ := alike_step hunread
  · rw [ht, ht']
    exact hsame
  · rw [hf, hf']

end

section
/-! SUPPORT. A run of acceptances from the start of a press to its end (42_framer.md R182, R184). -/

namespace Sys2Proof.Machine

/-- After m acceptances the next m samples are emitted, and the press has ended exactly when none is left. -/
theorem performAll_accepts {m : Nat} {s : State} (h : Streaming s)
    (hm : s.engine.k.toNat + m ≤ s.engine.snap.total) :
    ∃ u, performAll (List.replicate m .accept) s = .next u ∧
      u.stream = s.stream ++ pressFrom s.build s.engine.snap s.engine.k.toNat m ∧
      u.engine.k.toNat = s.engine.k.toNat + m ∧
      u.status = (if s.engine.k.toNat + m = s.engine.snap.total then { s.status with busy := false, done := true }
        else s.status) ∧
      u.results = s.results ∧ u.cfg = s.cfg ∧ u.payload = s.payload ∧ u.errFlags = s.errFlags := by
  have hleft := h.left
  induction m generalizing s with
  | zero =>
    exact ⟨s, rfl, (List.append_nil _).symm, rfl, (if_neg (by omega)).symm, rfl, rfl, rfl, rfl⟩
  | succ m ih =>
    obtain ⟨a, hperform, ha⟩ := perform_accept_of_streaming h
    have hk := toNat_succ_k h
    rw [pressFrom_succ, List.append_cons, List.replicate_succ, performAll_cons hperform]
    obtain hend | hmore : s.engine.k.toNat + 1 = s.engine.snap.total ∨ s.engine.k.toNat + 1 < s.engine.snap.total := by
      omega
    · obtain rfl : m = 0 := by omega
      refine ⟨_, rfl, (List.append_nil _).symm, hk, ?_, rfl, rfl, rfl, rfl⟩
      rw [emit_pressSample_status, zero_add]
    · have hu := streaming_emit h ha hmore
      obtain ⟨u, hrun, hstream, hku, hstatus, hresults, hcfg, hpayload, hflags⟩ :=
        ih hu (by simp only [emit_engine, hk]; omega) hu.left
      rw [emit_pressSample_status, if_neg hmore.ne] at hstatus
      simp only [emit_engine, hk, add_assoc, add_comm 1 m] at hku hstatus hstream
      exact ⟨u, hrun, hstream, hku, hstatus, hresults, hcfg, hpayload, hflags⟩

theorem pressFrom_start (b : Build) (p : Snapshot) (m : Nat) :
    pressFrom b p 0 m = (List.range m).map (pressSample b p) := by simp [pressFrom]

/-- A BUILD whose press is not empty leaves a press in progress, before its first sample. -/
theorem streaming_of_built {t : State} (hinv : CoreOk t) (hbusy : t.status.busy = true) (hpin : t.resetPin = false)
    (hk : t.engine.k = 0) : Streaming t where
  build := hinv.build
  busy := hbusy
  pin := hpin
  snap := hinv.engine.snap hbusy
  left := hinv.engine.left hbusy
  phase i hi := by
    rw [hk, show (0 : DWord).toNat = 0 from rfl, Nat.zero_mod] at hi
    omega

/-- What a BUILD without an error leaves of the engine and its status, from an idle block. -/
theorem exec_build_of_no_errors {s t : State} (hs : CoreOk s) (hidle : s.status.busy = false)
    (hpin : s.resetPin = false) (herr : s.buildErrors = []) (hbuild : exec .build s = .next t) :
    CoreOk t ∧ t.resetPin = false ∧ t.stream = s.stream ∧ t.build = s.build ∧ t.engine.k = 0 ∧
      t.status.busy = decide (t.results.totalSamples.toNat ≠ 0) ∧
      t.status.done = decide (t.results.totalSamples.toNat = 0) := by
  have hcore : CoreOk t := by
    rw [exec_eq] at hbuild
    cases hbuild
    exact coreOk_respond (coreOk_of_effect ((instrEffect .build).leads s) hs) _
  obtain ⟨period, n, hcadence⟩ := cadence_of_buildErrors_eq_nil herr
  have htotal : (BitVec.ofNat 64 (s.total n)).toNat = s.total n := by
    rw [BitVec.toNat_ofNat, Nat.mod_eq_of_lt (total_lt_of_buildErrors herr hcadence)]
  rw [exec_build_idle hidle, build_of_cadence herr hcadence, buildPress_acceptBuild period n hidle] at hbuild
  cases hbuild
  refine ⟨hcore, hpin, rfl, rfl, rfl, ?_, ?_⟩ <;> simp only [respond, builtResults, htotal]

end Sys2Proof.Machine
end

section
/-! The statement about a whole press. -/

open Sys2Proof Sys2Proof.Machine

/-- Settles O40: the empty press is done at once, any other starts a press in progress that m acceptances emit. -/
theorem buildThenAcceptsStreamWholePress : Obligations.BuildThenAcceptsStreamWholePress := by
  intro s t hs hidle hpin herr hbuild m hm
  obtain ⟨hcore, htpin, hstream, htbuild, hk, hbusy, hdone⟩ :=
    exec_build_of_no_errors ((inv_iff s).1 hs).1 hidle hpin herr hbuild
  have hk0 : t.engine.k.toNat = 0 := by rw [hk]; rfl
  by_cases hempty : t.results.totalSamples.toNat = 0
  · obtain rfl : m = 0 := by omega
    refine ⟨t, rfl, by simp [hstream], hk0, ?_, ?_, rfl, rfl, rfl, rfl⟩
    · simp [hbusy, hempty]
    · simp [hdone, hempty]
  · have htbusy : t.status.busy = true := by simp [hbusy, hempty]
    have htdone : t.status.done = false := by simp [hdone, hempty]
    have htotal := hcore.engine.total htbusy
    obtain ⟨u, hrun, hustream, huk, hustatus, hrest⟩ :=
      performAll_accepts (m := m) (streaming_of_built hcore htbusy htpin hk) (by omega)
    rw [hk0, zero_add, htotal] at hustatus
    rw [hk0] at huk hustream
    rw [pressFrom_start, hstream, htbuild] at hustream
    refine ⟨u, hrun, hustream, by omega, ?_, ?_, hrest⟩
    · rw [hustatus]
      split
      · simp [*]
      · rw [htbusy, eq_comm, decide_eq_true_iff]; omega
    · rw [hustatus]
      split
      · simp [*]
      · rw [htdone, eq_comm, decide_eq_false_iff_not]; assumption

end

section
/-! SUPPORT. The register map in the spec's numbers (10_state.md R30 to R59): the computed words as sums of their fields,
and what each offset reads. -/

namespace Sys2Proof.Machine

/-! ## Words as numbers -/

theorem loHalf_eq_lowWord (v : DWord) : loHalf v = lowWord v := by
  apply BitVec.eq_of_toNat_eq
  rw [loHalf, lowWord, BitVec.extractLsb'_toNat, BitVec.toNat_ofNat, Nat.shiftRight_zero, Nat.mod_mod]

theorem hiHalf_eq_highWord (v : DWord) : hiHalf v = highWord v := by
  apply BitVec.eq_of_toNat_eq
  rw [hiHalf, highWord, BitVec.extractLsb'_toNat, BitVec.toNat_ofNat, Nat.shiftRight_eq_div_pow]

theorem setWidth_eq_ofNat {n : Nat} (v : BitVec n) : v.setWidth 32 = BitVec.ofNat 32 v.toNat := by
  apply BitVec.eq_of_toNat_eq
  rw [BitVec.toNat_setWidth, BitVec.toNat_ofNat]

theorem nibbleCount_eq (n : Nat) : (BitVec.ofNat 16 n).setWidth 32 = BitVec.ofNat 32 (n % 2 ^ 16) := by
  rw [setWidth_eq_ofNat, BitVec.toNat_ofNat]

theorem errorBit_toNat (s : State) : s.errorBit.toNat = if s.errFlags = 0 then 0 else 1 := by
  by_cases h : s.errFlags = 0
  · rw [State.errorBit, if_pos h, h]; rfl
  · rw [State.errorBit, if_neg h, bne_iff_ne.2 h]; rfl

/-- STATUS as the sum of its fields (10_state.md R34). -/
theorem statusWord_eq_sum (s : State) : s.statusWord = BitVec.ofNat 32 (statusSum s) := by
  have hpad : (0 : BitVec 24).toNat = 0 := rfl
  have hbit : ∀ b : Bool, b.toNat ≤ 1 := Bool.toNat_le
  apply BitVec.eq_of_toNat_eq
  simp only [State.statusWord, statusSum, ← errorBit_toNat, toNat_append_eq_add, BitVec.toNat_ofBool, hpad,
    BitVec.toNat_ofNat]
  have h0 := hbit s.status.busy
  have h1 := hbit s.status.done
  have h2 := hbit s.status.metaValid
  have h3 := hbit s.status.gapClamped
  have h4 := hbit s.errorBit
  have h5 := hbit s.status.resolveValid
  have h6 := hbit s.status.tuneValid
  have h7 := hbit s.irqLevel
  omega

/-- DEC_STATUS as the sum of its fields (10_state.md R49). -/
theorem decStatus_eq_sum (p : Payload) : p.statusWord = BitVec.ofNat 32 (decStatusSum p) := by
  unfold Payload.statusWord decStatusSum
  cases p.phase <;> cases p.badHex <;> cases p.overflow <;> rfl

/-! ## The map -/

/-- The entries of the map whose values `registerReads` states. -/
def statedRegs : List (Nat × Reg) :=
  regMap.filter fun e => e.2 ≠ .id && e.2 ≠ .version && e.2 ≠ .params && e.2 ≠ .byteData

/-- Every entry of the map stands at an aligned offset of its own. -/
theorem regMap_regAt :
    ∀ e ∈ regMap, (BitVec.ofNat 12 e.1).toNat % 4 = 0 ∧ regAt (BitVec.ofNat 12 e.1) = some e.2 := by
  decide +kernel

/-- `registerReads` lists what the registers read, in the map's order. -/
theorem registerReads_eq (s : State) :
    registerReads s = statedRegs.map fun e => (BitVec.ofNat 12 e.1, readReg s e.2) := by
  simp [registerReads, statedRegs, regMap, controlRegMap, resultRegMap, readReg, CfgRegs.read, statusWord_eq_sum,
    decStatus_eq_sum, loHalf_eq_lowWord, hiHalf_eq_highWord, nibbleCount_eq, phaseField,
    Payload.bitCount, Payload.nbytes]

/-- The registers that a write has no effect on. -/
def Reg.readOnly : Reg → Bool
  | .cmd | .irqEn | .byteSel | .cfg _ => false
  | _ => true

theorem readOnlyOffsets_eq :
    readOnlyOffsets = (regMap.filter fun e => Reg.readOnly e.2).map fun e => BitVec.ofNat 12 e.1 := by
  simp [readOnlyOffsets, regMap, controlRegMap, resultRegMap, Reg.readOnly]

theorem readOnlyOffsets_regAt {o : Offset} (h : o ∈ readOnlyOffsets) :
    o.toNat % 4 = 0 ∧ ∃ r, regAt o = some r ∧ Reg.readOnly r = true := by
  rw [readOnlyOffsets_eq] at h
  obtain ⟨e, he, rfl⟩ := List.mem_map.1 h
  obtain ⟨hmem, hro⟩ := List.mem_filter.1 he
  obtain ⟨halign, hreg⟩ := regMap_regAt e hmem
  exact ⟨halign, e.2, hreg, hro⟩

theorem writeEffect_readOnly {o : Offset} {r : Reg} (hreg : regAt o = some r) (h : Reg.readOnly r = true) (v : Word) :
    writeEffect o v = .nothing := by
  rw [writeEffect, hreg]
  cases r with
  | cmd | irqEn | byteSel | cfg x => cases h
  | _ => rfl

/-! ## The map after reset -/

theorem irqLevel_of_irqEn_zero {s : State} (h : s.irqEn = 0) : s.irqLevel = false := by
  simp [State.irqLevel, h]

/-- Past the identity registers every register reads 0 from a block whose registers are at their reset values. -/
theorem readReg_initial {b : Build} {r : Reg} (h : r ≠ .id ∧ r ≠ .version ∧ r ≠ .params) :
    readReg (State.initial b) r = 0 := by
  obtain ⟨hid, hversion, hparams⟩ := h
  have hphase : phaseField b 0 = 0 := by simp [phaseField]
  have hhigh : hiHalf 0 = 0 := by decide
  cases r with
  | id => exact absurd rfl hid
  | version => exact absurd rfl hversion
  | params => exact absurd rfl hparams
  | cfg x => cases x <;> rfl
  | ftw0 => exact hphase
  | ftw1 => exact hphase
  | phase => exact hphase
  | periodResHi | s2sHi | packetSamplesHi | gapSamplesHi | totalSamplesHi | totalDurationHi | emittedHi => exact hhigh
  | status =>
    have hirq : (State.initial b).irqLevel = false := irqLevel_of_irqEn_zero rfl
    rw [readReg, statusWord_eq_sum, statusSum, hirq]
    rfl
  | bitCount => exact congrArg (BitVec.ofNat 32) (by decide : 8 * ((0 + 1) / 2) = 0)
  | decStatus =>
    rw [readReg, decStatus_eq_sum]
    rfl
  | _ => rfl

/-- Only the first three words of the map are identity registers. -/
theorem regMap_identity :
    ∀ e ∈ regMap, 0x00C ≤ e.1 → e.2 ≠ .id ∧ e.2 ≠ .version ∧ e.2 ≠ .params := by decide

theorem mem_regMap_of_regAt {o : Offset} {r : Reg} (h : regAt o = some r) : (o.toNat, r) ∈ regMap := by
  obtain ⟨l₁, l₂, hsplit, -⟩ := List.lookup_eq_some_iff.1 h
  rw [hsplit]
  simp

theorem readOffset_initial {b : Build} {o : Offset} (h : 0x00C ≤ o.toNat) : readOffset (State.initial b) o = 0 := by
  unfold readOffset
  cases hreg : regAt o with
  | none => rfl
  | some r => exact readReg_initial (regMap_identity _ (mem_regMap_of_regAt hreg) h)

/-- A read sees neither the stream, nor the last answer, nor the events to come. -/
theorem readOffset_outside (s : State) (st : List Emission) (r : Response) (pin : Bool) (es : List Event) (o : Offset) :
    readOffset { s with stream := st, resp := r, resetPin := pin, inputs := es } o = readOffset s o := by
  unfold readOffset
  cases regAt o with
  | none => rfl
  | some x => cases x <;> rfl

end Sys2Proof.Machine
end

section
/-! The statements about the register map. -/

open Sys2Proof Sys2Proof.Machine

/-- Settles O12, entry by entry; the computed words are sums of their fields. -/
theorem registerMapReads : Obligations.RegisterMapReads := by
  intro s o v h
  rw [registerReads_eq] at h
  obtain ⟨e, he, heq⟩ := List.mem_map.1 h
  obtain ⟨rfl, rfl⟩ := Prod.mk.inj heq
  obtain ⟨halign, hreg⟩ := regMap_regAt e (List.mem_of_mem_filter he)
  rw [exec_readOp halign, readOffset_of_regAt hreg]

/-- Settles O13: RD of legal shape answers with the value at the offset. -/
theorem readHasNoSideEffect : Obligations.ReadHasNoSideEffect :=
  fun s o h => ⟨readOffset s o, exec_readOp h s⟩

/-- Settles O15: a write to a read-only register has no effect. -/
theorem readOnlyRegistersIgnoreWrites : Obligations.ReadOnlyRegistersIgnoreWrites := by
  intro s o v h
  obtain ⟨halign, r, hreg, hro⟩ := readOnlyOffsets_regAt h
  rw [exec_writeOp halign, writeOffset_eq, writeEffect_readOnly hreg hro]
  rfl

/-- Settles O17: IRQ_EN and BYTE_SEL are not guarded. -/
theorem controlRegisterWrites : Obligations.ControlRegisterWrites := by
  intro s v
  have hbits : v.setWidth 3 = BitVec.ofNat 3 (v.toNat % 8) := by
    apply BitVec.eq_of_toNat_eq
    rw [BitVec.toNat_setWidth, BitVec.toNat_ofNat]
    omega
  constructor
  · rw [exec_writeOp rfl, writeOffset_eq, ← hbits]
    rfl
  · rw [exec_writeOp rfl, writeOffset_eq]
    rfl

end

section
/-! SUPPORT. Two configuration writes one after the other (10_state.md R47). -/

namespace Sys2Proof.Machine

theorem execAll_two_cfg (x y : CfgReg) (v w : Word) (s : State) :
    execAll [writeOp (cfgOffset x) v, writeOp (cfgOffset y) w] s =
      .next (respond .written (writeCfg y w (respond .written (writeCfg x v s)))) := by
  rw [execAll_cons (exec_writeOp_cfgOffset x v s), execAll_cons (exec_writeOp_cfgOffset y w _)]
  rfl

theorem store_comm {x y : CfgReg} (h : x ≠ y) (c : CfgRegs) (v w : Word) :
    (c.store x v).store y w = (c.store y w).store x v := by
  cases x <;> cases y <;> trivial

theorem store_store (c : CfgRegs) (x : CfgReg) (v : Word) : (c.store x v).store x v = c.store x v := by
  cases x <;> rfl

theorem markWritten_comm (c : CfgRegs) (x y : CfgReg) :
    (c.markWritten x).markWritten y = (c.markWritten y).markWritten x := by
  unfold CfgRegs.markWritten
  cases writtenBit x <;> cases writtenBit y <;> simp only [BitVec.or_assoc]
  next i j => rw [BitVec.or_comm (1#14 <<< i)]

theorem markWritten_markWritten (c : CfgRegs) (x : CfgReg) : (c.markWritten x).markWritten x = c.markWritten x := by
  unfold CfgRegs.markWritten
  cases writtenBit x <;> simp only [BitVec.or_assoc, BitVec.or_self]

theorem store_markWritten (c : CfgRegs) (x y : CfgReg) (v : Word) :
    (c.markWritten y).store x v = (c.store x v).markWritten y := by
  unfold CfgRegs.markWritten
  cases writtenBit y <;> cases x <;> rfl

theorem afterCfgWrite_comm (st : Status) (x y : CfgReg) :
    (st.afterCfgWrite x).afterCfgWrite y = (st.afterCfgWrite y).afterCfgWrite x := by
  simp only [Status.afterCfgWrite, Bool.and_right_comm]

theorem afterCfgWrite_afterCfgWrite (st : Status) (x : CfgReg) :
    (st.afterCfgWrite x).afterCfgWrite x = st.afterCfgWrite x := by
  simp only [Status.afterCfgWrite, Bool.and_assoc, Bool.and_self]

/-- Both writes are accepted or both are rejected. -/
theorem two_writeCfg_busy {s : State} (h : s.status.busy = true) (x y : CfgReg) (v w : Word) :
    respond .written (writeCfg y w (respond .written (writeCfg x v s))) =
      respond .written (raise .busyReject (raise .busyReject s)) := by
  rw [writeCfg_busy h, writeCfg_busy (s := respond .written (raise .busyReject s)) h]
  rfl

theorem two_writeCfg_idle {s : State} (h : s.status.busy = false) (x y : CfgReg) (v w : Word) :
    respond .written (writeCfg y w (respond .written (writeCfg x v s))) =
      respond .written { s with
        cfg := (((s.cfg.store x v).store y w).markWritten x).markWritten y
        status := (s.status.afterCfgWrite x).afterCfgWrite y } := by
  rw [writeCfg_idle h, writeCfg_idle (by exact h)]
  have hcfg := store_markWritten (s.cfg.store x v) y x w
  exact congrArg (fun c => respond .written { s with
    cfg := CfgRegs.markWritten c y, status := (s.status.afterCfgWrite x).afterCfgWrite y }) hcfg

/-- A cause raised again adds nothing. -/
theorem raise_raise (e : Cause) (s : State) : raise e (raise e s) = raise e s := by
  have hflags : flagsAfter (flagsAfter s.errFlags [e]) [e] = flagsAfter s.errFlags [e] := by
    rw [flagsAfter_singleton, flagsAfter_singleton, BitVec.or_assoc, BitVec.or_self]
  have hcode : codeAfter (codeAfter s.errCode [e]) [e] = codeAfter s.errCode [e] := by
    refine codeAfter_of_ne_zero ?_ _
    rw [codeAfter_singleton]
    split
    · exact code_ne_zero e
    · assumption
  simp only [raise, raiseAll, hflags, hcode]

end Sys2Proof.Machine
end

section
/-! The statements about two configuration writes. -/

open Sys2Proof Sys2Proof.Machine

/-- Settles O18: the registers and their bits are separate, and the cleared VALID bits add up. -/
theorem configurationWritesCommute : Obligations.ConfigurationWritesCommute := by
  intro s x y v w hne
  rw [execAll_two_cfg, execAll_two_cfg]
  cases hbusy : s.status.busy
  · rw [two_writeCfg_idle hbusy, two_writeCfg_idle hbusy, store_comm hne, markWritten_comm, afterCfgWrite_comm]
  · rw [two_writeCfg_busy hbusy, two_writeCfg_busy hbusy]

/-- Settles O19: neither an accepted nor a rejected write adds anything when it is repeated. -/
theorem configurationWriteIdempotent : Obligations.ConfigurationWriteIdempotent := by
  intro s x v
  rw [execAll_two_cfg, execAll_cons (exec_writeOp_cfgOffset x v s), execAll]
  cases hbusy : s.status.busy
  · rw [two_writeCfg_idle hbusy, writeCfg_idle hbusy, store_store, markWritten_markWritten,
      afterCfgWrite_afterCfgWrite]
  · rw [two_writeCfg_busy hbusy, writeCfg_busy hbusy, raise_raise]

end

section
/-! The statements about single commands and about reset. -/

open Sys2Proof Sys2Proof.Machine

/-- Settles O21: CLRPAY is accepted while idle. -/
theorem clrpayClearsPayload : Obligations.ClrpayClearsPayload := by
  intro s hidle
  rw [exec_clrpay_idle hidle]
  rfl

/-- Settles O27: TUNE is accepted while idle, and `tune_ok` decides. -/
theorem tuneWritesTuningWords : Obligations.TuneWritesTuningWords := by
  intro s hidle
  have hexec : exec .tune s = .next (respond .written (tune s)) := unlessBusy_idle hidle tune
  rw [hexec]
  split
  next hok =>
    rw [tune_ok hok]
    rfl
  next hok =>
    rw [tune_refused (Bool.eq_false_of_not_eq_true hok), raise_eq_recordError]
    rfl

/-- Settles O35: RESOLVE is accepted while idle, and with no error both values exist. -/
theorem resolveWritesCadence : Obligations.ResolveWritesCadence := by
  intro s hidle
  have hexec : exec .resolve s = .next (respond .written (resolve s)) := unlessBusy_idle hidle resolve
  rw [hexec]
  obtain ⟨period, n, herr, hcadence, hres⟩ | ⟨hno, hres⟩ := resolve_cases s <;> rw [hres]
  · obtain ⟨hperiod, hcount⟩ := cadence_eq_some_iff.1 hcadence
    rw [if_pos herr]
    exact ⟨period, n, hperiod, hcount, rfl⟩
  · have herr : s.cfg.cadenceErrors ≠ [] := by
      rcases hno with hne | hnone
      · exact hne
      · intro herr
        obtain ⟨period, n, hcadence⟩ := cadence_of_cadenceErrors_eq_nil herr
        exact nomatch hnone.symm.trans hcadence
    rw [if_neg herr]
    rfl

/-- Settles O38: BUILD is accepted while idle, and with an error it starts no press. -/
theorem buildFailureRaisesEveryCause : Obligations.BuildFailureRaisesEveryCause := by
  intro s hidle herr
  obtain ⟨-, -, hnone, -⟩ | ⟨-, hbuild⟩ := build_cases s
  · exact absurd hnone herr
  · rw [exec_build_idle hidle, hbuild]
    rfl

/-- Settles O44, by NOP's own arm. -/
theorem nopChangesNothing : Obligations.NopChangesNothing := fun _ => rfl

/-- Settles O45: with ERR_FLAGS, DONE and GAP_CLAMPED at 0 no term of the interrupt level is left. -/
theorem clrstClearsRecord : Obligations.ClrstClearsRecord := by
  intro s
  refine ⟨_, exec_eq .clrst s, ?_, rfl⟩
  rw [Bool.eq_false_iff, Ne, irqLevel_eq_true_iff]
  simp [instrEffect, commandEffect, Effect.run]

/-- Settles O50: all five are guarded. -/
theorem busyRejectsCommands : Obligations.BusyRejectsCommands := by
  intro s i hbusy hi
  have hguarded (g : Guarded) : (Effect.guarded g).run s = raise .busyReject s := if_pos hbusy
  have hreject : ∀ g, exec i s = .next (respond .written ((Effect.guarded g).run s)) →
      exec i s = .next { recordError 8 s with resp := .written } := by
    intro g h
    rw [h, hguarded, raise_eq_recordError]
    rfl
  obtain rfl | ⟨c, rfl⟩ | rfl | rfl | rfl := hi
  · exact hreject .clrpay (exec_eq .clrpay s)
  · exact hreject (.pushc c) (exec_eq (.pushc c) s)
  · exact hreject .tune (exec_eq .tune s)
  · exact hreject .build (exec_eq .build s)
  · exact hreject .resolve (exec_eq .resolve s)

/-- Settles O46: the block is `State.initial` of its build but for what stands outside it. -/
theorem srstResetsTheBlock : Obligations.SrstResetsTheBlock := by
  intro s
  refine ⟨respond .written (applyReset s), exec_eq .srst s, rfl, rfl, rfl, rfl, rfl, rfl, rfl, rfl, rfl, rfl, rfl, rfl,
    irqLevel_of_irqEn_zero rfl, rfl, fun o ho => ?_, rfl, rfl, rfl, rfl, rfl⟩
  exact (readOffset_outside (State.initial s.build) _ _ _ _ o).trans (readOffset_initial ho)

/-- Settles O47: reset is applied whatever the state, and nothing is performed while the input is asserted. -/
theorem resetInputHoldsTheBlock : Obligations.ResetInputHoldsTheBlock :=
  fun s _ _ => ⟨assertReset s, rfl, rfl, rfl, rfl, rfl, rfl⟩

/-- Settles O48: the three identity registers, and 0 at every offset behind them. -/
theorem resetStateReads : Obligations.ResetStateReads := by
  refine ⟨fun o halign => ?_, rfl, rfl, rfl, rfl, rfl, rfl, rfl, rfl, rfl⟩
  rw [exec_readOp halign]
  have heq {n : Nat} (hn : n < 2 ^ 12) : o = BitVec.ofNat 12 n ↔ o.toNat = n := by
    rw [← BitVec.toNat_inj, BitVec.toNat_ofNat, Nat.mod_eq_of_lt hn]
  split_ifs with hid hversion hparams
  · rw [hid]; rfl
  · rw [hversion]; rfl
  · rw [hparams, readOffset_params (by decide)]; rfl
  · have h0 := mt (heq (n := 0) (by decide)).2 hid
    have h4 := mt (heq (n := 4) (by decide)).2 hversion
    have h8 := mt (heq (n := 8) (by decide)).2 hparams
    rw [State.reset, readOffset_initial (by omega)]

end

section
/-! SUPPORT. Encodings with a fraction of p bits (30_encoding.md R110, R111): the exponent and fraction fields as one number,
the magnitude it stands for, and rounding to the nearest magnitude (00_scope.md R10). -/

namespace Sys2Proof.Machine

/-! ## Magnitudes and their encodings -/

/-- The magnitude, in least quanta, whose exponent and fraction bits are the number x: the inverse of `encodeUnits`. -/
def decodeUnits (p x : Nat) : Nat :=
  if x / 2 ^ p = 0 then x % 2 ^ p else (2 ^ p + x % 2 ^ p) * 2 ^ (x / 2 ^ p - 1)

/-- A significand and a quantum as a format with a p-bit fraction pairs them; a significand of 2^(p+1) is the next
binade's 2^p. -/
structure Significand (p c q : Nat) : Prop where
  le : c ≤ 2 ^ (p + 1)
  normal : q = 0 ∨ 2 ^ p ≤ c

section
variable {p c q : Nat}

theorem quantumExp_eq_zero {m : Nat} (h : m < 2 ^ (p + 1)) : quantumExp p m = 0 := by
  by_cases hm : m = 0
  · simp [hm, quantumExp]
  · have hlog := (Nat.log2_lt hm).2 h
    unfold quantumExp
    omega

theorem quantumExp_mul_two_pow (hlow : 2 ^ p ≤ c) (hhigh : c < 2 ^ (p + 1)) : quantumExp p (c * 2 ^ q) = q := by
  have hc : c ≠ 0 := (Nat.two_pow_pos p |>.trans_le hlow).ne'
  have hlog : Nat.log2 (c * 2 ^ q) = p + q := by
    rw [Nat.log2_eq_iff (by positivity), pow_add, add_right_comm, pow_add _ (p + 1)]
    exact ⟨Nat.mul_le_mul_right _ hlow, Nat.mul_lt_mul_of_pos_right hhigh (by positivity)⟩
  rw [quantumExp, hlog, Nat.add_sub_cancel_left]

/-- The encoding of c quanta of 2^q. -/
theorem encodeUnits_mul_two_pow (h : Significand p c q) : encodeUnits p (c * 2 ^ q) = q * 2 ^ p + c := by
  obtain hlow | hlow := lt_or_ge c (2 ^ p)
  · obtain rfl : q = 0 := h.normal.resolve_right (not_le.2 hlow)
    have hq : quantumExp p c = 0 := quantumExp_eq_zero (hlow.trans (Nat.pow_lt_pow_right one_lt_two p.lt_succ_self))
    simp [encodeUnits, hq]
  · obtain hhigh | rfl := h.le.lt_or_eq
    · rw [encodeUnits, quantumExp_mul_two_pow hlow hhigh, Nat.mul_div_cancel _ (Nat.two_pow_pos q)]
    · have hnext : 2 ^ (p + 1) * 2 ^ q = 2 ^ p * 2 ^ (q + 1) := by rw [← pow_add, ← pow_add]; congr 1; omega
      rw [hnext, encodeUnits, quantumExp_mul_two_pow le_rfl (Nat.pow_lt_pow_right one_lt_two p.lt_succ_self),
        Nat.mul_div_cancel _ (Nat.two_pow_pos _), pow_succ]
      ring

/-- The magnitude of an encoding of c quanta of 2^q. -/
theorem decodeUnits_add (h : Significand p c q) : decodeUnits p (q * 2 ^ p + c) = c * 2 ^ q := by
  have hp := Nat.two_pow_pos p
  unfold decodeUnits
  obtain hlow | hlow := lt_or_ge c (2 ^ p)
  · obtain rfl : q = 0 := h.normal.resolve_right (not_le.2 hlow)
    simp [Nat.div_eq_of_lt hlow, Nat.mod_eq_of_lt hlow]
  · obtain ⟨f, rfl⟩ := Nat.exists_eq_add_of_le hlow
    have hle := h.le
    rw [pow_succ] at hle
    rw [show q * 2 ^ p + (2 ^ p + f) = f + 2 ^ p * (q + 1) by ring, Nat.add_mul_div_left _ _ hp,
      Nat.add_mul_mod_self_left, if_neg (show f / 2 ^ p + (q + 1) ≠ 0 from Nat.succ_ne_zero _)]
    obtain hf | rfl := (show f ≤ 2 ^ p by omega).lt_or_eq
    · rw [Nat.div_eq_of_lt hf, Nat.mod_eq_of_lt hf, zero_add, Nat.add_sub_cancel]
    · rw [Nat.div_self hp, Nat.mod_self, show 1 + (q + 1) - 1 = q + 1 by omega, pow_succ]
      ring

end

/-- Every encoding is a significand below 2^(p+1) with its quantum. -/
theorem exists_significand (p x : Nat) :
    ∃ c q, Significand p c q ∧ c < 2 ^ (p + 1) ∧ x = q * 2 ^ p + c ∧ decodeUnits p x = c * 2 ^ q := by
  have hp := Nat.two_pow_pos p
  have hmod := Nat.mod_lt x hp
  have hx := Nat.div_add_mod x (2 ^ p)
  have hpow : 2 ^ (p + 1) = 2 * 2 ^ p := pow_succ' 2 p
  have h {c q : Nat} (hsig : Significand p c q) (hlt : c < 2 ^ (p + 1)) (hxq : x = q * 2 ^ p + c) :
      ∃ c q, Significand p c q ∧ c < 2 ^ (p + 1) ∧ x = q * 2 ^ p + c ∧ decodeUnits p x = c * 2 ^ q :=
    ⟨c, q, hsig, hlt, hxq, hxq ▸ decodeUnits_add hsig⟩
  cases hdiv : x / 2 ^ p with
  | zero =>
    rw [hdiv, mul_zero, zero_add] at hx
    exact h (c := x % 2 ^ p) (q := 0) ⟨by omega, .inl rfl⟩ (by omega) (by omega)
  | succ q =>
    rw [hdiv] at hx
    refine h (c := 2 ^ p + x % 2 ^ p) (q := q) ⟨by omega, .inr (by omega)⟩ (by omega) ?_
    rw [← hx, Nat.mul_add_mod, Nat.mod_mod]
    ring

theorem encodeUnits_decodeUnits (p x : Nat) : encodeUnits p (decodeUnits p x) = x := by
  obtain ⟨c, q, hsig, -, hx, hdec⟩ := exists_significand p x
  rw [hdec, encodeUnits_mul_two_pow hsig, ← hx]

/-! ## The rounded magnitude -/

section
variable {p e n d : Nat}

/-- The quantum of the rounded magnitude. -/
def roundQuantum (p e n d : Nat) : Nat := quantumExp p (n * 2 ^ e / d)

/-- The significand of the rounded magnitude. -/
def roundSignificand (p e n d : Nat) : Nat := rneDiv (n * 2 ^ e) (d * 2 ^ roundQuantum p e n d)

theorem roundUnits_eq (p e n d : Nat) :
    roundUnits p e n d = roundSignificand p e n d * 2 ^ roundQuantum p e n d := rfl

theorem significand_round (hd : 0 < d) : Significand p (roundSignificand p e n d) (roundQuantum p e n d) := by
  refine ⟨rneDiv_le (by positivity) (lt_two_pow_mul_quantum hd).le, ?_⟩
  obtain hzero | hpos := Nat.eq_zero_or_pos (roundQuantum p e n d)
  · exact .inl hzero
  · exact .inr (le_rneDiv (by positivity) (two_pow_mul_quantum_le hd hpos))

theorem encodeUnits_roundUnits (hd : 0 < d) : encodeUnits p (roundUnits p e n d) =
    roundQuantum p e n d * 2 ^ p + roundSignificand p e n d := encodeUnits_mul_two_pow (significand_round hd)

/-- No other integer is nearer than the nearest one, and one as near makes it the even one. -/
theorem NearestEven.le_of_ne {x z : ℤ} {r : ℚ} (h : NearestEven x r) (hne : z ≠ x) :
    |(x : ℚ) - r| ≤ |(z : ℚ) - r| ∧ (|(x : ℚ) - r| = |(z : ℚ) - r| → Even x) := by
  obtain ⟨hnear, heven⟩ := h
  have hgap : (1 : ℚ) ≤ |(z : ℚ) - x| := by exact_mod_cast Int.one_le_abs (sub_ne_zero.2 hne)
  have htri : |(z : ℚ) - x| ≤ |(z : ℚ) - r| + |(x : ℚ) - r| := by
    rw [abs_sub_comm (x : ℚ) r]
    exact abs_sub_le _ _ _
  exact ⟨by linarith, fun heq => heven (le_antisymm hnear (by linarith))⟩

/-- The exact real in quanta of the rounded magnitude. -/
theorem exact_eq_mul_quantum (hd : 0 < d) (q : Nat) :
    ((n * 2 ^ e : Nat) : ℚ) / d = ((n * 2 ^ e : Nat) : ℚ) / (d * 2 ^ q : Nat) * 2 ^ q := by
  have hd' : (d : ℚ) ≠ 0 := Nat.cast_ne_zero.2 hd.ne'
  rw [Nat.cast_mul d, Nat.cast_pow, Nat.cast_ofNat]
  field_simp

theorem abs_mul_quantum (x r : ℚ) (q : Nat) : |x * 2 ^ q - r * 2 ^ q| = |x - r| * 2 ^ q := by
  rw [← sub_mul, abs_mul, abs_of_pos (show (0 : ℚ) < 2 ^ q by positivity)]

/-- The magnitudes that are no whole number of quanta lie below the binade of the exact real. -/
theorem lt_two_pow_of_not_dvd {c q x : Nat} (h : decodeUnits p x = c * 2 ^ q) (hc : c < 2 ^ (p + 1)) {q' : Nat}
    (hdvd : ¬ 2 ^ q' ∣ decodeUnits p x) : decodeUnits p x < 2 ^ p * 2 ^ q' ∧ 0 < q' := by
  have hlt : q < q' := by
    by_contra hle
    exact hdvd (h ▸ Dvd.dvd.mul_left (pow_dvd_pow 2 (not_lt.1 hle)) c)
  refine ⟨?_, by omega⟩
  calc decodeUnits p x = c * 2 ^ q := h
    _ < 2 ^ (p + 1) * 2 ^ q := Nat.mul_lt_mul_of_pos_right hc (by positivity)
    _ = 2 ^ p * 2 ^ (q + 1) := by rw [← pow_add, ← pow_add]; congr 1; omega
    _ ≤ 2 ^ p * 2 ^ q' := Nat.mul_le_mul_left _ (Nat.pow_le_pow_right two_pos hlt)

/-- No magnitude of the format is nearer to n / d than the rounded one, and one as near makes its encoding even. -/
theorem roundUnits_nearest (hd : 0 < d) (hp : 0 < p) {x : Nat} (hne : decodeUnits p x ≠ roundUnits p e n d) :
    |(roundUnits p e n d : ℚ) - (n * 2 ^ e : Nat) / d| ≤ |(decodeUnits p x : ℚ) - (n * 2 ^ e : Nat) / d| ∧
    (|(roundUnits p e n d : ℚ) - (n * 2 ^ e : Nat) / d| = |(decodeUnits p x : ℚ) - (n * 2 ^ e : Nat) / d| →
      encodeUnits p (roundUnits p e n d) % 2 = 0) := by
  have hsig := significand_round (p := p) (e := e) (n := n) hd
  have hquantum := two_pow_mul_quantum_le (p := p) (a := n * 2 ^ e) hd
  rw [encodeUnits_roundUnits hd, roundUnits_eq, exact_eq_mul_quantum hd (roundQuantum p e n d)] at *
  have hnear : NearestEven (roundSignificand p e n d : ℤ) _ :=
    nearestEven_rneDiv (n * 2 ^ e) (b := d * 2 ^ roundQuantum p e n d) (by positivity)
  change 0 < roundQuantum p e n d → 2 ^ p * (d * 2 ^ roundQuantum p e n d) ≤ n * 2 ^ e at hquantum
  generalize roundQuantum p e n d = q at *
  generalize roundSignificand p e n d = c at *
  have hD : (0 : ℚ) < (d * 2 ^ q : Nat) := Nat.cast_pos.2 (by positivity)
  generalize hy : ((n * 2 ^ e : Nat) : ℚ) / (d * 2 ^ q : Nat) = y at *
  have hcast : ((c * 2 ^ q : Nat) : ℚ) = (c : ℤ) * 2 ^ q := by push_cast; rfl
  rw [hcast, abs_mul_quantum]
  by_cases hdvd : 2 ^ q ∣ decodeUnits p x
  · obtain ⟨z, hz⟩ := hdvd
    have hzc : ((decodeUnits p x : Nat) : ℚ) = (z : ℤ) * 2 ^ q := by rw [hz]; push_cast; ring
    have hzne : (z : ℤ) ≠ c := by
      rintro hzc
      exact hne (by rw [hz, Int.natCast_inj.1 hzc, mul_comm])
    obtain ⟨hle, heq⟩ := hnear.le_of_ne hzne
    rw [hzc, abs_mul_quantum]
    refine ⟨mul_le_mul_of_nonneg_right hle (by positivity), fun h => ?_⟩
    have heven := (Int.even_coe_nat c).1 (heq (mul_right_cancel₀ (by positivity) h))
    have hpow : Even (2 ^ p) := (even_two.pow_of_ne_zero hp.ne')
    exact Nat.even_iff.1 ((hpow.mul_left q).add heven)
  · obtain ⟨c', q', -, hc', -, hdec⟩ := exists_significand p x
    obtain ⟨hlt, hq⟩ := lt_two_pow_of_not_dvd hdec hc' hdvd
    have hy2 : (2 ^ p : ℚ) ≤ y := by
      rw [← hy, le_div_iff₀ hD]
      exact_mod_cast hquantum hq
    have hc2 : |((c : ℤ) : ℚ) - y| ≤ |((2 ^ p : ℤ) : ℚ) - y| := by
      by_cases hcp : (2 ^ p : ℤ) = c
      · rw [hcp]
      · exact (hnear.le_of_ne hcp).1
    have hstrict : |((c : ℤ) : ℚ) - y| * 2 ^ q < |((decodeUnits p x : Nat) : ℚ) - y * 2 ^ q| := by
      have hx : ((decodeUnits p x : Nat) : ℚ) < 2 ^ p * 2 ^ q := by exact_mod_cast hlt
      have hpos : (0 : ℚ) < 2 ^ q := by positivity
      have hyq : (2 ^ p : ℚ) * 2 ^ q ≤ y * 2 ^ q := mul_le_mul_of_nonneg_right hy2 hpos.le
      rw [Int.cast_pow, Int.cast_ofNat, abs_of_nonpos (sub_nonpos.2 hy2)] at hc2
      rw [abs_of_neg (show ((decodeUnits p x : Nat) : ℚ) - y * 2 ^ q < 0 by linarith)]
      calc |((c : ℤ) : ℚ) - y| * 2 ^ q ≤ -(2 ^ p - y) * 2 ^ q := mul_le_mul_of_nonneg_right hc2 hpos.le
        _ < -(((decodeUnits p x : Nat) : ℚ) - y * 2 ^ q) := by linarith
    exact ⟨hstrict.le, fun h => absurd h hstrict.ne⟩

end

end Sys2Proof.Machine
end

section
/-! SUPPORT. Binary64 encodings (30_encoding.md R110): the value of a word by its fields, `bits64` against `f64`, and the
primitives of 00_scope.md R10 as RNE64 of the exact result. -/

namespace Sys2Proof.Machine

/-! ## The fields of a word -/

theorem f64Exp_eq (w : DWord) : f64Exp w = w.toNat / 2 ^ 52 % 2 ^ 11 := by
  rw [f64Exp, BitVec.extractLsb'_toNat, Nat.shiftRight_eq_div_pow]

theorem f64Frac_eq (w : DWord) : f64Frac w = w.toNat % 2 ^ 52 := by
  rw [f64Frac, BitVec.extractLsb'_toNat, Nat.shiftRight_zero]

theorem f64Sign_eq (w : DWord) : f64Sign w = decide (2 ^ 63 ≤ w.toNat) :=
  (BitVec.msb_eq_getLsbD_last w).symm.trans (BitVec.msb_eq_decide w)

/-- The exponent and fraction of a word as one number. -/
def magBits (w : DWord) : Nat := w.toNat % 2 ^ 63

theorem magBits_lt (w : DWord) : magBits w < 2 ^ 63 := Nat.mod_lt _ (Nat.two_pow_pos 63)

theorem f64Exp_eq_magBits (w : DWord) : f64Exp w = magBits w / 2 ^ 52 := by
  rw [f64Exp_eq, magBits]
  omega

theorem f64Frac_eq_magBits (w : DWord) : f64Frac w = magBits w % 2 ^ 52 := by
  rw [f64Frac_eq, magBits]
  omega

/-- A finite word has the magnitude of its exponent and fraction. -/
theorem f64_of_finite {w : DWord} (h : magBits w < 2047 * 2 ^ 52) :
    f64 w = .fin (f64Sign w) (decodeUnits 52 (magBits w)) := by
  have hexp : f64Exp w ≠ 2047 := by rw [f64Exp_eq_magBits]; omega
  rw [f64, if_neg hexp, decodeUnits, ← f64Exp_eq_magBits, ← f64Frac_eq_magBits]
  split <;> rfl

/-- A word with the largest exponent is infinite or NaN. -/
theorem f64_of_not_finite {w : DWord} (h : ¬ magBits w < 2047 * 2 ^ 52) :
    f64 w = if magBits w = 2047 * 2 ^ 52 then .inf (f64Sign w) else .nan := by
  have hlt := magBits_lt w
  have hexp : f64Exp w = 2047 := by rw [f64Exp_eq_magBits]; omega
  have hfrac : f64Frac w = 0 ↔ magBits w = 2047 * 2 ^ 52 := by rw [f64Frac_eq_magBits]; omega
  rw [f64, if_pos hexp, if_congr hfrac rfl rfl]

theorem finite_of_f64_eq_fin {w : DWord} {neg : Bool} {m : Nat} (h : f64 w = .fin neg m) :
    m = decodeUnits 52 (magBits w) := by
  by_cases hfin : magBits w < 2047 * 2 ^ 52
  · rw [f64_of_finite hfin] at h
    exact (F64.fin.inj h).2.symm
  · rw [f64_of_not_finite hfin] at h
    split at h <;> cases h

/-! ## Sign and magnitude put together -/

/-- A word from its sign and the number of its exponent and fraction. -/
theorem toNat_signed (neg : Bool) {x : Nat} (h : x < 2 ^ 63) :
    (BitVec.ofBool neg ++ BitVec.ofNat 63 x : DWord).toNat = neg.toNat * 2 ^ 63 + x := by
  rw [toNat_append_eq_add, BitVec.toNat_ofBool, BitVec.toNat_ofNat, Nat.mod_eq_of_lt h]

theorem magBits_signed (neg : Bool) {x : Nat} (h : x < 2 ^ 63) :
    magBits (BitVec.ofBool neg ++ BitVec.ofNat 63 x) = x := by
  rw [magBits, toNat_signed neg h]
  omega

theorem f64Sign_signed (neg : Bool) {x : Nat} (h : x < 2 ^ 63) :
    f64Sign (BitVec.ofBool neg ++ BitVec.ofNat 63 x) = neg := by
  rw [f64Sign_eq, toNat_signed neg h]
  cases neg
  · simpa using h
  · simp

/-- Every word is its sign and its exponent and fraction. -/
theorem signed_f64Sign_magBits (w : DWord) : BitVec.ofBool (f64Sign w) ++ BitVec.ofNat 63 (magBits w) = w := by
  apply BitVec.eq_of_toNat_eq
  rw [toNat_signed _ (magBits_lt w), f64Sign_eq, magBits]
  have hlt := w.isLt
  by_cases hsign : 2 ^ 63 ≤ w.toNat
  · rw [decide_eq_true hsign, Bool.toNat_true]; omega
  · rw [decide_eq_false hsign, Bool.toNat_false]; omega

/-! ## Rounded values have encodings -/

/-- Below the infinity threshold the exponent field is at most 2046. -/
theorem encodeUnits_lt_of_lt_infUnits {c q : Nat} (h : Significand 52 c q) (hlt : c * 2 ^ q < infUnits) :
    q * 2 ^ 52 + c < 2047 * 2 ^ 52 := by
  have hle := h.le
  obtain rfl | hnormal := h.normal
  · omega
  · have hbound (a k : Nat) (hak : a + k = 2098) (hc : 2 ^ a ≤ c) : q < k := by
      by_contra hq
      refine absurd hlt (not_lt.2 ?_)
      calc infUnits = 2 ^ a * 2 ^ k := by rw [infUnits, ← pow_add, hak]
        _ ≤ c * 2 ^ q := Nat.mul_le_mul hc (Nat.pow_le_pow_right two_pos (not_lt.1 hq))
    have hq := hbound 52 2046 rfl hnormal
    have hq' := hbound 53 2045 rfl
    omega

theorem magBits_bits64 (neg : Bool) {c q : Nat} (h : Significand 52 c q) (hlt : c * 2 ^ q < infUnits) :
    magBits (bits64 (.fin neg (c * 2 ^ q))) = q * 2 ^ 52 + c := by
  have henc := encodeUnits_lt_of_lt_infUnits h hlt
  rw [bits64, encodeUnits_mul_two_pow h, magBits_signed neg (by omega)]

/-- A magnitude of the format below the threshold is decoded from its encoding. -/
theorem f64_bits64 (neg : Bool) {c q : Nat} (h : Significand 52 c q) (hlt : c * 2 ^ q < infUnits) :
    f64 (bits64 (.fin neg (c * 2 ^ q))) = .fin neg (c * 2 ^ q) := by
  have henc := encodeUnits_lt_of_lt_infUnits h hlt
  have hsign : f64Sign (bits64 (.fin neg (c * 2 ^ q))) = neg := by
    rw [bits64, encodeUnits_mul_two_pow h, f64Sign_signed neg (by omega)]
  rw [f64_of_finite (by rwa [magBits_bits64 neg h hlt]), hsign, magBits_bits64 neg h hlt, decodeUnits_add h]

theorem getLsbD_zero_eq_false_of_magBits {w : DWord} (h : magBits w % 2 = 0) : w.getLsbD 0 = false := by
  rw [BitVec.getLsbD, Nat.testBit_zero, decide_eq_false_iff_not]
  rw [magBits] at h
  omega

/-! ## RNE64 -/

theorem threshold_pos : (0 : ℚ) < 2 ^ 1024 - 2 ^ 970 := sub_pos.2 (pow_lt_pow_right₀ one_lt_two (by decide))

/-- Distances in least quanta are distances of the values. -/
theorem abs_units (m n d : Nat) :
    |(m : ℚ) / 2 ^ 1074 - (n : ℚ) / d| = |(m : ℚ) - (n * 2 ^ 1074 : Nat) / d| / 2 ^ 1074 := by
  have hpos : (0 : ℚ) < 2 ^ 1074 := by positivity
  rw [Nat.cast_mul, Nat.cast_pow, Nat.cast_ofNat]
  generalize (2 : ℚ) ^ 1074 = u at hpos
  have hscale : (m : ℚ) - n * u / d = ((m : ℚ) / u - n / d) * u := by
    rw [sub_mul, div_mul_cancel₀ _ hpos.ne', div_mul_eq_mul_div]
  rw [hscale, abs_mul, abs_of_pos hpos, mul_div_cancel_right₀ _ hpos.ne']

/-- The real 0 rounds to a zero of either sign. -/
theorem roundsTo_zero (neg : Bool) : RoundsTo neg 0 (.fin neg 0) := by
  have hzero : f64 (bits64 (.fin neg 0)) = .fin neg 0 := by
    have h := f64_bits64 neg (c := 0) (q := 0) ⟨Nat.zero_le _, .inl rfl⟩
    rw [zero_mul] at h
    exact h (by unfold infUnits; positivity)
  rw [RoundsTo, if_neg (not_le.2 threshold_pos)]
  refine ⟨0, rfl, hzero, fun w neg' m' hw hne => ?_⟩
  have hpos : (0 : ℚ) < |(m' : ℚ) / 2 ^ 1074 - 0| := by
    rw [sub_zero]
    exact abs_pos.2 (div_ne_zero (Nat.cast_ne_zero.2 hne) (by positivity))
  rw [Nat.cast_zero, zero_div, sub_zero, abs_zero]
  exact ⟨hpos.le, fun h => absurd h hpos.ne⟩

/-- RNE64 of a real that is not 0. -/
theorem roundsTo_rne64 (neg : Bool) {n d : Nat} (hn : n ≠ 0) (hd : 0 < d) :
    RoundsTo neg ((n : ℚ) / d) (rne64 neg n d) := by
  unfold RoundsTo
  obtain ⟨hzero, -⟩ | ⟨-, hinf, h⟩ | ⟨-, hfin, h⟩ := rne64_cases neg n d
  · exact absurd hzero hn
  · rw [if_pos ((infUnits_le_roundUnits_iff hd n).1 hinf), h]
  · rw [if_neg (mt (infUnits_le_roundUnits_iff hd n).2 (not_le.2 hfin))]
    have hsig := significand_round (p := 52) (e := 1074) (n := n) hd
    rw [roundUnits_eq] at hfin
    refine ⟨roundUnits 52 1074 n d, h, f64_bits64 neg hsig hfin, fun w neg' m' hw hne => ?_⟩
    obtain rfl := finite_of_f64_eq_fin hw
    obtain ⟨hle, heven⟩ := roundUnits_nearest hd (by decide) hne
    have hpos : (0 : ℚ) < 2 ^ 1074 := by positivity
    rw [abs_units, abs_units]
    refine ⟨div_le_div_of_nonneg_right hle hpos.le, fun heq => getLsbD_zero_eq_false_of_magBits ?_⟩
    have hparity := heven ((div_left_inj' hpos.ne').1 heq)
    rw [encodeUnits_roundUnits hd] at hparity
    rw [roundUnits_eq, magBits_bits64 neg hsig hfin]
    exact hparity

/-- RNE64 with R10's sign on an exact zero: what quotients and products are. -/
theorem roundsTo_withZeroSign (neg : Bool) (n : Nat) {d : Nat} (hd : 0 < d) :
    RoundsTo neg ((n : ℚ) / d) ((rne64 neg n d).withZeroSign neg) := by
  by_cases hn : n = 0
  · rw [hn, rne64_zero, withZeroSign_zero, Nat.cast_zero, zero_div]
    exact roundsTo_zero neg
  · rw [rne64_withZeroSign neg hn]
    exact roundsTo_rne64 neg hn hd

theorem f64Mul_eq (sa sb : Bool) (ma mb : Nat) :
    f64Mul (.fin sa ma) (.fin sb mb) = (rne64 (sa ^^ sb) (ma * mb) (2 ^ 2148)).withZeroSign (sa ^^ sb) := rfl

theorem mul_units (ma mb : Nat) :
    (ma : ℚ) / 2 ^ 1074 * (mb / 2 ^ 1074) = ((ma * mb : Nat) : ℚ) / (2 ^ 2148 : Nat) := by
  rw [div_mul_div_comm, ← pow_add, Nat.cast_mul, Nat.cast_pow, Nat.cast_ofNat]

theorem isPos_iff (x : F64) : x.isPos = true ↔ x = .inf false ∨ ∃ m, x = .fin false m ∧ 0 < m := by
  cases x <;> simp [F64.isPos]

/-! ## The value of a word in the spec's form -/

/-- The value of a normal encoding: (1 + f/2^52) · 2^(e - 1023). -/
theorem normal_value (f k : Nat) :
    (((2 ^ 52 + f) * 2 ^ k : Nat) : ℚ) / 2 ^ 1074 =
      (2 : ℚ) ^ (((k + 1 : Nat) : ℤ) - 1023) * (1 + (f : ℚ) / 2 ^ 52) := by
  have hsplit : (2 : ℚ) ^ 1074 = 2 ^ 1022 * 2 ^ 52 := by rw [← pow_add]
  have hexp : (2 : ℚ) ^ (((k + 1 : Nat) : ℤ) - 1023) = 2 ^ k / 2 ^ 1022 := by
    rw [show ((k + 1 : Nat) : ℤ) - 1023 = (k : ℤ) - (1022 : Nat) by push_cast; ring, zpow_sub₀ two_ne_zero,
      zpow_natCast, zpow_natCast]
  rw [hsplit, hexp]
  have hA : (2 : ℚ) ^ 1022 ≠ 0 := by positivity
  have hB : (2 : ℚ) ^ 52 ≠ 0 := by positivity
  rw [Nat.cast_mul, Nat.cast_add, Nat.cast_pow, Nat.cast_pow, Nat.cast_ofNat]
  generalize (2 : ℚ) ^ 1022 = A at *
  generalize (2 : ℚ) ^ 52 = B at *
  field_simp

/-- The value of a subnormal encoding: f/2^52 · 2^-1022. -/
theorem subnormal_value (f : Nat) : (f : ℚ) / 2 ^ 1074 = (f : ℚ) / 2 ^ 52 / 2 ^ 1022 := by
  rw [div_div, ← pow_add]

theorem realOf_eq (neg : Bool) (mag : Nat) : realOf neg mag = (if neg then -1 else 1) * ((mag : ℚ) / 2 ^ 1074) := by
  cases neg
  · exact (one_mul _).symm
  · exact (neg_one_mul _).symm

end Sys2Proof.Machine
end

section
/-! The statements about binary64. -/

open Sys2Proof Sys2Proof.Machine

/-- Settles O58: RNE64 rounds significands to the nearest even integer, and the other primitives are RNE64 of a quotient
of natural numbers, with a sign put on a zero. -/
theorem rne64NearestTiesToEven : Obligations.Rne64NearestTiesToEven := by
  refine ⟨fun neg n d hd => ?_, fun sa sb ma mb hb => ?_, fun _ _ _ => rfl, fun sa sb ma mb => ?_,
    fun sa sb m hm => ?_, fun n => ?_, fun neg mag => ?_, fun x => ⟨isPos_iff x, isFinite_iff x⟩⟩
  · by_cases hn : n = 0
    · rw [hn, rne64_zero, decide_eq_false (not_not.2 rfl), Bool.and_false, Nat.cast_zero, zero_div]
      exact roundsTo_zero false
    · rw [decide_eq_true hn, Bool.and_true]
      exact roundsTo_rne64 neg hn hd
  · rw [f64Div, if_neg hb.ne']
    exact roundsTo_withZeroSign _ ma hb
  · rw [f64Mul_eq, mul_units]
    exact roundsTo_withZeroSign _ _ (by positivity)
  · exact ⟨if_neg hm.ne', if_neg hm.ne'⟩
  · have hone : (n : ℚ) = (n : ℚ) / (1 : Nat) := by rw [Nat.cast_one, div_one]
    by_cases hn : n = 0
    · rw [toF64, hn, rne64_zero, Nat.cast_zero]
      exact roundsTo_zero false
    · rw [hone]
      exact roundsTo_rne64 false hn one_pos
  · have h := nearestEven_rintScaled 0 neg mag
    rwa [pow_zero, mul_one] at h

/-- Settles O59: the exponent field decides, and the magnitude in least quanta is the value of R110. -/
theorem binary64EncodingValues : Obligations.Binary64EncodingValues := by
  intro w sign e f
  have hsign : f64Sign w = sign := rfl
  have he : f64Exp w = e := f64Exp_eq w
  have hf : f64Frac w = f := f64Frac_eq w
  rw [f64, hsign, he, hf]
  by_cases hmax : e = 2047
  · rw [if_pos hmax, if_pos hmax]
  · rw [if_neg hmax, if_neg hmax]
    by_cases hsub : e = 0
    · rw [if_pos hsub, if_pos hsub]
      exact ⟨f, rfl, by rw [realOf_eq, subnormal_value]⟩
    · obtain ⟨k, hk⟩ := Nat.exists_eq_succ_of_ne_zero hsub
      rw [if_neg hsub, if_neg hsub, hk]
      exact ⟨_, rfl, by rw [realOf_eq, Nat.succ_sub_one, normal_value]⟩

/-- Settles O60: the encoder inverts the fields, whatever the kind of the value. -/
theorem bits64InvertsF64 : Obligations.Bits64InvertsF64 := by
  intro w hnan
  by_cases hfin : magBits w < 2047 * 2 ^ 52
  · rw [f64_of_finite hfin, bits64, encodeUnits_decodeUnits, signed_f64Sign_magBits]
  · rw [f64_of_not_finite hfin] at hnan ⊢
    split at hnan
    next hinf => rw [if_pos hinf, bits64, ← hinf, signed_f64Sign_magBits]
    next => exact absurd rfl hnan

end

section
/-! SUPPORT. The fixed-point cosine and sine of the reference table (41_modulator.md R156) against the real functions: the
alternating series, its truncation, and the rounding of the 160-bit fixed point. -/

namespace Sys2Proof.Machine

open Finset (range)

/-! ## The series over the reals -/

/-- The nested series that `fixSeries` computes, over the reals. -/
noncomputable def realSeries (y : ℝ) : List Nat → ℝ
  | [] => 1
  | d :: ds => 1 - y * realSeries y ds / d

theorem realSeries_cosDivisors (x : ℝ) : realSeries (x ^ 2) cosDivisors =
    ∑ i ∈ range 21, (-1) ^ i * (x ^ (2 * i) / (2 * i).factorial) := by
  simp only [realSeries, cosDivisors, Finset.sum_range_succ, Finset.sum_range_zero, Nat.factorial]
  push_cast
  ring

theorem realSeries_sinDivisors (x : ℝ) : x * realSeries (x ^ 2) sinDivisors =
    ∑ i ∈ range 21, (-1) ^ i * (x ^ (2 * i + 1) / (2 * i + 1).factorial) := by
  simp only [realSeries, sinDivisors, Finset.sum_range_succ, Finset.sum_range_zero, Nat.factorial]
  push_cast
  ring

/-- The terms of both series shrink for 0 ≤ x ≤ 1. -/
theorem terms_antitone {x : ℝ} (h0 : 0 ≤ x) (h1 : x ≤ 1) (s : Nat) :
    Antitone fun n => x ^ (2 * n + s) / ((2 * n + s).factorial : ℝ) := by
  refine antitone_nat_of_succ_le fun n => ?_
  have hpow : x ^ (2 * (n + 1) + s) ≤ x ^ (2 * n + s) := pow_le_pow_of_le_one h0 h1 (by omega)
  have hfact : ((2 * n + s).factorial : ℝ) ≤ (2 * (n + 1) + s).factorial :=
    Nat.cast_le.2 (Nat.factorial_le (by omega))
  exact div_le_div₀ (pow_nonneg h0 _) hpow (Nat.cast_pos.2 (Nat.factorial_pos _)) hfact

/-- Cut after 21 terms, an alternating series of shrinking terms is off by at most the last of them. -/
theorem abs_partialSum_sub_le {f : Nat → ℝ} (hf : Antitone f) {l : ℝ}
    (hl : HasSum (fun n => (-1) ^ n * f n) l) : |∑ i ∈ range 21, (-1) ^ i * f i - l| ≤ f 20 := by
  have hlow := hf.alternating_series_le_tendsto hl.tendsto_sum_nat 10
  have hhigh := hf.tendsto_le_alternating_series hl.tendsto_sum_nat 10
  have hlast : ∑ i ∈ range 21, (-1) ^ i * f i = ∑ i ∈ range (2 * 10), (-1) ^ i * f i + f 20 := by
    rw [Finset.sum_range_succ, show (-1 : ℝ) ^ 20 = 1 by norm_num1, one_mul]
  rw [hlast] at hhigh ⊢
  rw [abs_le]
  constructor <;> linarith

theorem term_twenty_le {x : ℝ} (h0 : 0 ≤ x) (h1 : x ≤ 1) (s : Nat) :
    x ^ (2 * 20 + s) / ((2 * 20 + s).factorial : ℝ) ≤ (1 / 2) ^ 30 := by
  have hfact : 2 ^ 30 ≤ (2 * 20 + s).factorial :=
    le_trans (by decide : 2 ^ 30 ≤ Nat.factorial 13) (Nat.factorial_le (by omega))
  rw [div_pow, one_pow]
  exact div_le_div₀ zero_le_one (pow_le_one₀ h0 h1) (by positivity) (by exact_mod_cast hfact)

theorem abs_realSeries_sub_cos {x : ℝ} (h0 : 0 ≤ x) (h1 : x ≤ 1) :
    |realSeries (x ^ 2) cosDivisors - Real.cos x| ≤ (1 / 2) ^ 30 := by
  have hsum : HasSum (fun n => (-1) ^ n * (x ^ (2 * n) / ((2 * n).factorial : ℝ))) (Real.cos x) := by
    simpa only [mul_div_assoc] using Real.hasSum_cos x
  rw [realSeries_cosDivisors]
  exact (abs_partialSum_sub_le (terms_antitone h0 h1 0) hsum).trans (term_twenty_le h0 h1 0)

theorem abs_realSeries_sub_sin {x : ℝ} (h0 : 0 ≤ x) (h1 : x ≤ 1) :
    |x * realSeries (x ^ 2) sinDivisors - Real.sin x| ≤ (1 / 2) ^ 30 := by
  have hsum : HasSum (fun n => (-1) ^ n * (x ^ (2 * n + 1) / ((2 * n + 1).factorial : ℝ))) (Real.sin x) := by
    simpa only [mul_div_assoc] using Real.hasSum_sin x
  rw [realSeries_sinDivisors]
  exact (abs_partialSum_sub_le (terms_antitone h0 h1 1) hsum).trans (term_twenty_le h0 h1 1)

/-! ## Fixed point -/

/-- The real that a fixed-point number stands for. -/
noncomputable def fixReal (v : Nat) : ℝ := (v : ℝ) / fixOne

theorem fixOne_pos : (0 : ℝ) < (fixOne : ℝ) := by
  rw [fixOne, Nat.cast_pow]
  positivity

/-- One unit of fixed point, bounded coarsely. -/
theorem fixUnit_le : 1 / (fixOne : ℝ) ≤ (1 / 2) ^ 60 := by
  rw [fixOne, Nat.cast_pow, Nat.cast_ofNat, div_pow, one_pow]
  exact one_div_le_one_div_of_le (by positivity) (pow_le_pow_right₀ one_le_two (by decide))

theorem fixReal_nonneg (v : Nat) : 0 ≤ fixReal v := div_nonneg (Nat.cast_nonneg v) fixOne_pos.le

theorem fixReal_le_one {v : Nat} (h : v ≤ fixOne) : fixReal v ≤ 1 :=
  (div_le_one fixOne_pos).2 (Nat.cast_le.2 h)

/-- A quotient rounded down is off by less than 1. -/
theorem abs_natDiv_sub_le (a : Nat) {b : Nat} (hb : 0 < b) : |((a / b : Nat) : ℝ) - (a : ℝ) / b| ≤ 1 := by
  have hlow : (((a / b : Nat) : ℝ)) ≤ (a : ℝ) / b := Nat.cast_div_le
  have hhigh : (a : ℝ) / b < ((a / b : Nat) : ℝ) + 1 := by
    rw [div_lt_iff₀ (Nat.cast_pos.2 hb)]
    exact_mod_cast Nat.lt_mul_of_div_lt (Nat.lt_succ_self _) hb
  rw [abs_le]
  constructor <;> linarith

/-- A fixed-point quotient is off by less than a unit. -/
theorem abs_fixReal_div_sub_le (a : Nat) {b : Nat} (hb : 0 < b) :
    |fixReal (a / b) - (a : ℝ) / b / fixOne| ≤ (1 / 2) ^ 60 := by
  rw [fixReal, ← sub_div, abs_div, abs_of_pos fixOne_pos]
  exact (div_le_div_of_nonneg_right (abs_natDiv_sub_le a hb) fixOne_pos.le).trans fixUnit_le

/-- A fixed-point product is off by less than a unit. -/
theorem abs_fixReal_mul_sub_le (a b : Nat) : |fixReal (a * b / fixOne) - fixReal a * fixReal b| ≤ (1 / 2) ^ 60 := by
  have h := abs_fixReal_div_sub_le (a * b) (Nat.cast_pos.1 fixOne_pos)
  rwa [Nat.cast_mul, mul_div_assoc, mul_div_right_comm] at h

theorem mul_div_fixOne_le {a b : Nat} (h : b ≤ fixOne) : a * b / fixOne ≤ a :=
  Nat.div_le_of_le_mul (by rw [mul_comm fixOne]; exact Nat.mul_le_mul_left a h)

/-! ## The series in fixed point -/

theorem fixSeries_le (x2 : Nat) (ds : List Nat) : fixSeries x2 ds ≤ fixOne := by
  cases ds with
  | nil => exact le_rfl
  | cons d ds => exact Nat.sub_le _ _

/-- Products of numbers in [0, 1] differ by at most their differences together. -/
theorem abs_mul_sub_mul_le {a b a' b' : ℝ} (hb0 : 0 ≤ b) (hb1 : b ≤ 1) (ha0 : 0 ≤ a') (ha1 : a' ≤ 1) :
    |a * b - a' * b'| ≤ |a - a'| + |b - b'| := by
  have hsplit : a * b - a' * b' = (a - a') * b + a' * (b - b') := by ring
  calc |a * b - a' * b'| ≤ |(a - a') * b| + |a' * (b - b')| := hsplit ▸ abs_add_le _ _
    _ ≤ |a - a'| + |b - b'| := by
      rw [abs_mul, abs_mul, abs_of_nonneg hb0, abs_of_nonneg ha0]
      exact add_le_add (mul_le_of_le_one_right (abs_nonneg _) hb1) (mul_le_of_le_one_left (abs_nonneg _) ha1)

/-- One level of the nested series: 1 minus a product by a divisor. -/
theorem fixReal_fixSeries_cons {x2 d : Nat} (hx : x2 ≤ fixOne) (hd : 0 < d) (ds : List Nat) :
    |fixReal (fixSeries x2 (d :: ds)) - (1 - fixReal x2 * fixReal (fixSeries x2 ds) / d)| ≤ (1 / 2) ^ 60 := by
  have hone : 0 < fixOne := Nat.cast_pos.1 fixOne_pos
  have hterm : x2 * fixSeries x2 ds / (fixOne * d) ≤ fixOne := by
    rw [← Nat.div_div_eq_div_mul]
    exact (Nat.div_le_self _ _).trans ((mul_div_fixOne_le (fixSeries_le x2 ds)).trans hx)
  have hquot := abs_fixReal_div_sub_le (x2 * fixSeries x2 ds) (b := fixOne * d) (by positivity)
  have hreal : ((x2 * fixSeries x2 ds : Nat) : ℝ) / (fixOne * d : Nat) / fixOne =
      fixReal x2 * fixReal (fixSeries x2 ds) / d := by
    rw [fixReal, fixReal, Nat.cast_mul, Nat.cast_mul]
    ring
  have hsub : fixReal (fixSeries x2 (d :: ds)) = 1 - fixReal (x2 * fixSeries x2 ds / (fixOne * d)) := by
    rw [fixReal, fixSeries, Nat.cast_sub hterm, sub_div, div_self fixOne_pos.ne', fixReal]
  rwa [hsub, sub_sub_sub_cancel_left, abs_sub_comm, ← hreal]

/-- Each divisor of at least 2 halves the error so far, so the error stays below twice what one level adds. -/
theorem abs_fixSeries_sub_realSeries {x2 : Nat} {y : ℝ} (hx : x2 ≤ fixOne) (hy0 : 0 ≤ y) (hy1 : y ≤ 1)
    {ds : List Nat} (hds : ∀ d ∈ ds, 2 ≤ d) :
    |fixReal (fixSeries x2 ds) - realSeries y ds| ≤ 2 * (1 / 2) ^ 60 + |fixReal x2 - y| := by
  induction ds with
  | nil =>
    rw [realSeries, fixSeries, fixReal, div_self fixOne_pos.ne', sub_self, abs_zero]
    positivity
  | cons d ds ih =>
    obtain ⟨hd, hrest⟩ := List.forall_mem_cons.1 hds
    have hd2 : (2 : ℝ) ≤ d := by exact_mod_cast hd
    have hlevel := fixReal_fixSeries_cons hx (by omega : 0 < d) ds
    have hprod := abs_mul_sub_mul_le (a := fixReal x2) (b' := realSeries y ds) (fixReal_nonneg (fixSeries x2 ds))
      (fixReal_le_one (fixSeries_le x2 ds)) hy0 hy1
    have hhalf : |fixReal x2 * fixReal (fixSeries x2 ds) / d - y * realSeries y ds / d| ≤
        |fixReal x2 * fixReal (fixSeries x2 ds) - y * realSeries y ds| / 2 := by
      rw [← sub_div, abs_div, abs_of_pos (by linarith : (0 : ℝ) < d)]
      exact div_le_div_of_nonneg_left (abs_nonneg _) two_pos hd2
    have htri := abs_sub_le (fixReal (fixSeries x2 (d :: ds)))
      (1 - fixReal x2 * fixReal (fixSeries x2 ds) / d) (1 - y * realSeries y ds / d)
    rw [sub_sub_sub_cancel_left, abs_sub_comm (y * realSeries y ds / d)] at htri
    have hih := ih hrest
    rw [realSeries]
    linarith

/-! ## The angle -/

/-- The constant is pi/4. -/
theorem abs_fixQuarterPi_sub_le : |fixReal fixQuarterPi - Real.pi / 4| ≤ (1 / 2) ^ 60 := by
  have hlow := Real.pi_gt_d20
  have hhigh := Real.pi_lt_d20
  rw [fixReal, fixQuarterPi, fixOne, abs_le]
  norm_num at *
  constructor <;> linarith

theorem fixAngle_le {r m : Nat} (h : r ≤ m) : fixAngle r m ≤ fixOne := by
  have hconst : fixQuarterPi ≤ fixOne := by decide
  exact (Nat.div_le_of_le_mul (by rw [mul_comm m]; exact Nat.mul_le_mul_left _ h)).trans hconst

/-- The angle (pi/4) · r / m. -/
noncomputable def octantAngle (r m : Nat) : ℝ := Real.pi / 4 * (r / m)

section
variable {r m : Nat}

theorem octantAngle_nonneg : 0 ≤ octantAngle r m := by unfold octantAngle; positivity

theorem octantAngle_le_one (h : r ≤ m) : octantAngle r m ≤ 1 := by
  have hratio : (r : ℝ) / m ≤ 1 := div_le_one_of_le₀ (Nat.cast_le.2 h) (Nat.cast_nonneg m)
  have hpi : Real.pi / 4 ≤ 1 := by linarith [Real.pi_le_four]
  exact mul_le_one₀ hpi (by positivity) hratio

theorem abs_fixAngle_sub_le (hm : 0 < m) (h : r ≤ m) :
    |fixReal (fixAngle r m) - octantAngle r m| ≤ 2 * (1 / 2) ^ 60 := by
  have hratio : (r : ℝ) / m ≤ 1 := div_le_one_of_le₀ (Nat.cast_le.2 h) (Nat.cast_nonneg m)
  have hdiv := abs_fixReal_div_sub_le (fixQuarterPi * r) hm
  have hreal : ((fixQuarterPi * r : Nat) : ℝ) / m / fixOne = fixReal fixQuarterPi * (r / m) := by
    rw [fixReal, Nat.cast_mul]
    ring
  have hconst : |fixReal fixQuarterPi * (r / m) - octantAngle r m| ≤ (1 / 2) ^ 60 := by
    rw [octantAngle, ← sub_mul, abs_mul, abs_of_nonneg (by positivity : (0 : ℝ) ≤ r / m)]
    exact (mul_le_of_le_one_right (abs_nonneg _) hratio).trans abs_fixQuarterPi_sub_le
  have htri := abs_sub_le (fixReal (fixAngle r m)) (fixReal fixQuarterPi * (r / m)) (octantAngle r m)
  rw [hreal] at hdiv
  rw [fixAngle] at htri ⊢
  linarith

/-! ## cos and sin -/

/-- The square of the angle in fixed point. -/
theorem abs_fixSquare_sub_le (hm : 0 < m) (h : r ≤ m) :
    |fixReal (fixAngle r m * fixAngle r m / fixOne) - octantAngle r m ^ 2| ≤ 5 * (1 / 2) ^ 60 := by
  have hangle := abs_fixAngle_sub_le hm h
  have hmul := abs_fixReal_mul_sub_le (fixAngle r m) (fixAngle r m)
  have hprod := abs_mul_sub_mul_le (a := fixReal (fixAngle r m)) (b' := octantAngle r m)
    (fixReal_nonneg (fixAngle r m)) (fixReal_le_one (fixAngle_le h)) octantAngle_nonneg (octantAngle_le_one h)
  have htri := abs_sub_le (fixReal (fixAngle r m * fixAngle r m / fixOne))
    (fixReal (fixAngle r m) * fixReal (fixAngle r m)) (octantAngle r m * octantAngle r m)
  rw [pow_two]
  linarith

/-- The series at the square of the angle. -/
theorem abs_fixSeries_angle_sub_le (hm : 0 < m) (h : r ≤ m) {ds : List Nat} (hds : ∀ d ∈ ds, 2 ≤ d) :
    |fixReal (fixSeries (fixAngle r m * fixAngle r m / fixOne) ds) - realSeries (octantAngle r m ^ 2) ds| ≤
      7 * (1 / 2) ^ 60 := by
  have hle : fixAngle r m * fixAngle r m / fixOne ≤ fixOne :=
    (mul_div_fixOne_le (fixAngle_le h)).trans (fixAngle_le h)
  have hseries := abs_fixSeries_sub_realSeries hle (sq_nonneg (octantAngle r m))
    (pow_le_one₀ octantAngle_nonneg (octantAngle_le_one h)) hds
  have hsquare := abs_fixSquare_sub_le hm h
  linarith

theorem fixCos_le (r m : Nat) : fixCos r m ≤ fixOne := fixSeries_le _ _

theorem fixSin_le (h : r ≤ m) : fixSin r m ≤ fixOne :=
  (mul_div_fixOne_le (fixSeries_le _ _)).trans (fixAngle_le h)

theorem abs_fixCos_sub_le (hm : 0 < m) (h : r ≤ m) :
    |fixReal (fixCos r m) - Real.cos (octantAngle r m)| ≤ (1 / 2) ^ 25 := by
  have hfix := abs_fixSeries_angle_sub_le hm h (ds := cosDivisors) (by decide)
  have hcos := abs_realSeries_sub_cos octantAngle_nonneg (octantAngle_le_one h)
  have htri := abs_sub_le (fixReal (fixCos r m)) (realSeries (octantAngle r m ^ 2) cosDivisors)
    (Real.cos (octantAngle r m))
  rw [fixCos] at htri ⊢
  norm_num at *
  linarith

theorem abs_fixSin_sub_le (hm : 0 < m) (h : r ≤ m) :
    |fixReal (fixSin r m) - Real.sin (octantAngle r m)| ≤ (1 / 2) ^ 25 := by
  have hangle := abs_fixAngle_sub_le hm h
  have hfix := abs_fixSeries_angle_sub_le hm h (ds := sinDivisors) (by decide)
  have hsin := abs_realSeries_sub_sin octantAngle_nonneg (octantAngle_le_one h)
  have hle := fixSeries_le (fixAngle r m * fixAngle r m / fixOne) sinDivisors
  rw [fixSin]
  generalize fixSeries (fixAngle r m * fixAngle r m / fixOne) sinDivisors = f at *
  have hmul := abs_fixReal_mul_sub_le (fixAngle r m) f
  have hprod := abs_mul_sub_mul_le (a := fixReal (fixAngle r m)) (b' := realSeries (octantAngle r m ^ 2) sinDivisors)
    (fixReal_nonneg f) (fixReal_le_one hle) octantAngle_nonneg (octantAngle_le_one h)
  have htri := abs_sub_le (fixReal (fixAngle r m * f / fixOne)) (fixReal (fixAngle r m) * fixReal f)
    (Real.sin (octantAngle r m))
  have htri' := abs_sub_le (fixReal (fixAngle r m) * fixReal f)
    (octantAngle r m * realSeries (octantAngle r m ^ 2) sinDivisors) (Real.sin (octantAngle r m))
  norm_num at *
  linarith

end

end Sys2Proof.Machine
end

section
/-! SUPPORT. Binary32 components of the reference table (30_encoding.md R111, 41_modulator.md R156): rounding a magnitude of
at most 1 is off by at most 2^-25, and the eight octants of the circle. -/

namespace Sys2Proof.Machine

/-! ## Binary32 words -/

theorem toNat_signed32 (neg : Bool) {x : Nat} (h : x < 2 ^ 31) :
    (BitVec.ofBool neg ++ BitVec.ofNat 31 x : Word).toNat = neg.toNat * 2 ^ 31 + x := by
  rw [toNat_append_eq_add, BitVec.toNat_ofBool, BitVec.toNat_ofNat, Nat.mod_eq_of_lt h]

theorem sign_signed32 (neg : Bool) {x : Nat} (h : x < 2 ^ 31) :
    (BitVec.ofBool neg ++ BitVec.ofNat 31 x : Word)[31] = neg := by
  have hmsb : ∀ w : Word, w[31] = decide (2 ^ 31 ≤ w.toNat) := fun w =>
    (BitVec.msb_eq_getLsbD_last w).symm.trans (BitVec.msb_eq_decide w)
  rw [hmsb, toNat_signed32 neg h]
  cases neg
  · simpa using h
  · simp

theorem exp_signed32 (neg : Bool) {x : Nat} (h : x < 2 ^ 31) :
    ((BitVec.ofBool neg ++ BitVec.ofNat 31 x : Word).extractLsb' 23 8).toNat = x / 2 ^ 23 := by
  rw [BitVec.extractLsb'_toNat, Nat.shiftRight_eq_div_pow, toNat_signed32 neg h]
  cases neg
  · rw [Bool.toNat_false]; omega
  · rw [Bool.toNat_true]; omega

theorem frac_signed32 (neg : Bool) {x : Nat} (h : x < 2 ^ 31) :
    ((BitVec.ofBool neg ++ BitVec.ofNat 31 x : Word).extractLsb' 0 23).toNat = x % 2 ^ 23 := by
  rw [BitVec.extractLsb'_toNat, Nat.shiftRight_zero, toNat_signed32 neg h]
  omega

/-- A word of sign and magnitude bits below the largest exponent is finite, with the magnitude of those bits. -/
theorem real32_signed (neg : Bool) {x : Nat} (h : x < 255 * 2 ^ 23) :
    finite32 (BitVec.ofBool neg ++ BitVec.ofNat 31 x) = true ∧
      real32 (BitVec.ofBool neg ++ BitVec.ofNat 31 x) =
        (if neg then -1 else 1) * ((decodeUnits 23 x : ℚ) / 2 ^ 149) := by
  have hx : x < 2 ^ 31 := h.trans (by norm_num1)
  constructor
  · rw [finite32, bne_iff_ne, ← BitVec.toNat_ne_iff_ne, exp_signed32 neg hx,
      show (255 : BitVec 8).toNat = 255 from rfl]
    omega
  · have hmag : (if x / 2 ^ 23 = 0 then ((x % 2 ^ 23 : Nat) : ℚ) / 2 ^ 149
        else (2 ^ 23 + (x % 2 ^ 23 : Nat) : ℚ) * 2 ^ (x / 2 ^ 23 - 1) / 2 ^ 149) =
          (decodeUnits 23 x : ℚ) / 2 ^ 149 := by
      unfold decodeUnits
      split
      · rfl
      · rw [Nat.cast_mul, Nat.cast_add, Nat.cast_pow, Nat.cast_pow, Nat.cast_ofNat]
    simp only [real32, exp_signed32 neg hx, frac_signed32 neg hx, sign_signed32 neg hx, hmag]
    cases neg
    · exact (one_mul _).symm
    · exact (neg_one_mul _).symm

/-! ## Rounding to binary32 -/

/-- The rounded magnitude is within half a quantum of the exact one. -/
theorem abs_roundUnits_sub_le (p e n : Nat) {d : Nat} (hd : 0 < d) :
    |(roundUnits p e n d : ℚ) - (n * 2 ^ e : Nat) / d| ≤ 2 ^ roundQuantum p e n d / 2 := by
  have hnear : NearestEven (roundSignificand p e n d : ℤ) _ :=
    nearestEven_rneDiv (n * 2 ^ e) (b := d * 2 ^ roundQuantum p e n d) (by positivity)
  rw [roundUnits_eq, exact_eq_mul_quantum hd (roundQuantum p e n d), Nat.cast_mul, Nat.cast_pow, Nat.cast_ofNat,
    abs_mul_quantum, div_eq_mul_one_div (2 ^ roundQuantum p e n d), mul_comm]
  exact mul_le_mul_of_nonneg_left hnear.1 (by positivity)

/-- Below 1 the quantum of binary32 is at most 2^-24. -/
theorem roundQuantum_le {n d : Nat} (hlt : n < d) : roundQuantum 23 149 n d ≤ 125 := by
  have hquot : n * 2 ^ 149 / d < 2 ^ 149 := Nat.div_lt_of_lt_mul (Nat.mul_lt_mul_of_pos_right hlt (by positivity))
  unfold roundQuantum quantumExp
  by_cases hzero : n * 2 ^ 149 / d = 0
  · rw [hzero]
    decide
  · have := (Nat.log2_lt hzero).2 hquot
    omega

/-- A magnitude in units of 2^-149 against the real it rounds. -/
theorem abs_units32_sub_le {n d : Nat} (hd : 0 < d) (hlt : n < d) :
    |(roundUnits 23 149 n d : ℚ) / 2 ^ 149 - (n : ℚ) / d| ≤ (1 / 2) ^ 25 := by
  have hround := abs_roundUnits_sub_le 23 149 n hd
  have hpow : (2 : ℚ) ^ roundQuantum 23 149 n d ≤ 2 ^ 125 := pow_le_pow_right₀ one_le_two (roundQuantum_le hlt)
  have hunits : (0 : ℚ) < 2 ^ 149 := by positivity
  have hscale : (n : ℚ) / d = ((n * 2 ^ 149 : Nat) : ℚ) / d / 2 ^ 149 := by
    rw [Nat.cast_mul, Nat.cast_pow, Nat.cast_ofNat]
    field_simp
  rw [hscale, ← sub_div, abs_div, abs_of_pos hunits, div_le_iff₀ hunits]
  norm_num at *
  linarith

/-- The word of ±1.0. -/
theorem fixToBits32_one (neg : Bool) :
    fixToBits32 neg fixOne = BitVec.ofBool neg ++ BitVec.ofNat 31 (126 * 2 ^ 23 + 2 ^ 23) := by
  cases neg <;> decide +kernel

theorem fixToBits32_zero (neg : Bool) : fixToBits32 neg 0 = 0 := rfl

/-- A fixed-point magnitude of at most 1 in binary32: finite, and off by at most 2^-25. -/
theorem fixToBits32_spec (neg : Bool) {v : Nat} (h : v ≤ fixOne) :
    finite32 (fixToBits32 neg v) = true ∧ ∃ μ : ℚ, real32 (fixToBits32 neg v) = (if neg then -1 else 1) * μ ∧
      |μ - (v : ℚ) / fixOne| ≤ (1 / 2) ^ 25 := by
  have hone : 0 < fixOne := Nat.cast_pos.1 fixOne_pos
  obtain hlt | rfl := h.lt_or_eq
  · by_cases hv : v = 0
    · obtain ⟨hfin, hval⟩ := real32_signed false (x := 0) (by norm_num1)
      rw [hv, fixToBits32_zero]
      refine ⟨hfin, 0, ?_, by simp⟩
      rw [mul_zero]
      exact hval.trans (by simp [decodeUnits])
    · have hsig := significand_round (p := 23) (e := 149) (n := v) hone
      have hle := hsig.le
      have hq := roundQuantum_le hlt
      have hword : fixToBits32 neg v = BitVec.ofBool neg ++ BitVec.ofNat 31
          (roundQuantum 23 149 v fixOne * 2 ^ 23 + roundSignificand 23 149 v fixOne) := by
        rw [fixToBits32, rn32, if_neg hv, encodeUnits_roundUnits hone]
      obtain ⟨hfin, hval⟩ := real32_signed neg
        (x := roundQuantum 23 149 v fixOne * 2 ^ 23 + roundSignificand 23 149 v fixOne) (by omega)
      rw [decodeUnits_add hsig, ← roundUnits_eq] at hval
      rw [hword]
      exact ⟨hfin, _, hval, abs_units32_sub_le hone hlt⟩
  · obtain ⟨hfin, hval⟩ := real32_signed neg (x := 126 * 2 ^ 23 + 2 ^ 23) (by norm_num1)
    have hsig : Significand 23 (2 ^ 23) 126 := ⟨by norm_num1, .inr le_rfl⟩
    rw [decodeUnits_add hsig] at hval
    rw [fixToBits32_one]
    refine ⟨hfin, _, hval, ?_⟩
    rw [div_self (Nat.cast_ne_zero.2 hone.ne')]
    norm_num

/-- A component whose fixed-point magnitude is within 2^-25 of t conforms to ±t (41_modulator.md R155 (b)). -/
theorem fixToBits32_conforms (neg : Bool) {v : Nat} {t : ℝ} (h : v ≤ fixOne) (ht : |fixReal v - t| ≤ (1 / 2) ^ 25) :
    finite32 (fixToBits32 neg v) = true ∧
      |((real32 (fixToBits32 neg v) : ℚ) : ℝ) - (if neg then -t else t)| ≤ (1 / 2) ^ 24 := by
  obtain ⟨hfin, μ, hval, hμ⟩ := fixToBits32_spec neg h
  have hμ' : |(μ : ℝ) - fixReal v| ≤ (1 / 2) ^ 25 := by
    have hcast := (Rat.cast_le (K := ℝ)).2 hμ
    push_cast at hcast
    exact hcast
  have htri : |(μ : ℝ) - t| ≤ (1 / 2) ^ 24 := by
    have := abs_sub_le (μ : ℝ) (fixReal v) t
    norm_num at *
    linarith
  refine ⟨hfin, ?_⟩
  rw [hval]
  cases neg
  · simpa using htri
  · have hneg : (((if true then -1 else 1) * μ : ℚ) : ℝ) - (if true then -t else t) = -((μ : ℝ) - t) := by
      push_cast
      simp
      ring
    rwa [hneg, abs_neg]

/-! ## The octants of the circle -/

/-- The angle of entry k, o octants and the part r / 2^l of one. -/
theorem entryAngle_eq {l k o r : Nat} (h : 8 * k = o * 2 ^ l + r) :
    2 * Real.pi * k / 2 ^ l = o * (Real.pi / 4) + octantAngle r (2 ^ l) := by
  have hm : (0 : ℝ) < 2 ^ l := by positivity
  have hreal : (8 : ℝ) * k = o * 2 ^ l + r := by exact_mod_cast h
  have hk : (k : ℝ) = (o * 2 ^ l + r) / 8 := by linarith
  rw [octantAngle, hk, Nat.cast_pow, Nat.cast_ofNat]
  field_simp
  ring

/-- From the end of an octant back. -/
theorem octantAngle_sub {r m : Nat} (hm : 0 < m) (h : r ≤ m) :
    octantAngle r m = Real.pi / 4 - octantAngle (m - r) m := by
  have hm' : (m : ℝ) ≠ 0 := Nat.cast_ne_zero.2 hm.ne'
  rw [octantAngle, octantAngle, Nat.cast_sub h]
  field_simp
  ring

/-- An entry of two components that conform to ±t and ±u, for cos and sin of its angle. -/
theorem conformingEntry_of {l k vi vq : Nat} {t u : ℝ} (ni nq : Bool)
    (hi : vi ≤ fixOne ∧ |fixReal vi - t| ≤ (1 / 2) ^ 25) (hq : vq ≤ fixOne ∧ |fixReal vq - u| ≤ (1 / 2) ^ 25)
    (hcos : Real.cos (2 * Real.pi * k / 2 ^ l) = if ni then -t else t)
    (hsin : Real.sin (2 * Real.pi * k / 2 ^ l) = if nq then -u else u) :
    ConformingEntry l k { i := fixToBits32 ni vi, q := fixToBits32 nq vq } := by
  obtain ⟨hfi, hvi⟩ := fixToBits32_conforms ni hi.1 hi.2
  obtain ⟨hfq, hvq⟩ := fixToBits32_conforms nq hq.1 hq.2
  rw [ConformingEntry, hcos, hsin]
  exact ⟨hfi, hfq, hvi, hvq⟩

section
variable {x : ℝ} (a : ℝ)

/-- cos and sin of an angle in each octant, by the angle from the nearer end of the quarter it stands in. -/
theorem cos_sin_octant1 (h : x = Real.pi / 2 - a) : Real.cos x = Real.sin a ∧ Real.sin x = Real.cos a := by
  rw [h, Real.cos_pi_div_two_sub, Real.sin_pi_div_two_sub]
  exact ⟨rfl, rfl⟩

theorem cos_sin_octant2 (h : x = a + Real.pi / 2) : Real.cos x = -Real.sin a ∧ Real.sin x = Real.cos a := by
  rw [h, Real.cos_add_pi_div_two, Real.sin_add_pi_div_two]
  exact ⟨rfl, rfl⟩

theorem cos_sin_octant3 (h : x = Real.pi - a) : Real.cos x = -Real.cos a ∧ Real.sin x = Real.sin a := by
  rw [h, Real.cos_pi_sub, Real.sin_pi_sub]
  exact ⟨rfl, rfl⟩

theorem cos_sin_octant4 (h : x = a + Real.pi) : Real.cos x = -Real.cos a ∧ Real.sin x = -Real.sin a := by
  rw [h, Real.cos_add_pi, Real.sin_add_pi]
  exact ⟨rfl, rfl⟩

theorem cos_sin_octant5 (h : x = Real.pi / 2 - a + Real.pi) :
    Real.cos x = -Real.sin a ∧ Real.sin x = -Real.cos a := by
  rw [h, Real.cos_add_pi, Real.sin_add_pi, Real.cos_pi_div_two_sub, Real.sin_pi_div_two_sub]
  exact ⟨rfl, rfl⟩

theorem cos_sin_octant6 (h : x = a + Real.pi / 2 + Real.pi) :
    Real.cos x = Real.sin a ∧ Real.sin x = -Real.cos a := by
  rw [h, Real.cos_add_pi, Real.sin_add_pi, Real.cos_add_pi_div_two, Real.sin_add_pi_div_two, neg_neg]
  exact ⟨rfl, rfl⟩

theorem cos_sin_octant7 (h : x = 2 * Real.pi - a) : Real.cos x = Real.cos a ∧ Real.sin x = -Real.sin a := by
  rw [h, Real.cos_two_pi_sub, Real.sin_two_pi_sub]
  exact ⟨rfl, rfl⟩

end

/-- Every entry of the reference table conforms: by its octant, counting from the nearer end. -/
theorem conformingEntry_reference {l k : Nat} (hk : k < 2 ^ l) : ConformingEntry l k (referenceEntry l k) := by
  have hm : 0 < 2 ^ l := Nat.two_pow_pos l
  have hr : 8 * k % 2 ^ l ≤ 2 ^ l := (Nat.mod_lt _ hm).le
  have ho : 8 * k / 2 ^ l < 8 := Nat.div_lt_of_lt_mul (by omega)
  have hangle : ∀ o, 8 * k / 2 ^ l = o →
      2 * Real.pi * k / 2 ^ l = o * (Real.pi / 4) + octantAngle (8 * k % 2 ^ l) (2 ^ l) := by
    rintro o rfl
    exact entryAngle_eq ((Nat.div_add_mod' _ _).symm)
  have hback := octantAngle_sub hm hr
  have hC {r : Nat} (h : r ≤ 2 ^ l) : fixCos r (2 ^ l) ≤ fixOne ∧ _ := ⟨fixCos_le _ _, abs_fixCos_sub_le hm h⟩
  have hS {r : Nat} (h : r ≤ 2 ^ l) : fixSin r (2 ^ l) ≤ fixOne ∧ _ := ⟨fixSin_le h, abs_fixSin_sub_le hm h⟩
  have hr' : 2 ^ l - 8 * k % 2 ^ l ≤ 2 ^ l := Nat.sub_le _ _
  rw [referenceEntry]
  generalize 8 * k / 2 ^ l = o at ho hangle
  generalize 8 * k % 2 ^ l = r at *
  have hx := hangle o rfl
  interval_cases o
  · have hx : 2 * Real.pi * k / 2 ^ l = octantAngle r (2 ^ l) := by rw [hx]; push_cast; ring
    exact conformingEntry_of false false (hC hr) (hS hr) (congrArg Real.cos hx) (congrArg Real.sin hx)
  · obtain ⟨hcos, hsin⟩ := cos_sin_octant1 (octantAngle (2 ^ l - r) (2 ^ l)) (hx.trans (by rw [hback]; push_cast; ring))
    exact conformingEntry_of false false (hS hr') (hC hr') hcos hsin
  · obtain ⟨hcos, hsin⟩ := cos_sin_octant2 (octantAngle r (2 ^ l)) (hx.trans (by push_cast; ring))
    exact conformingEntry_of true false (hS hr) (hC hr) hcos hsin
  · obtain ⟨hcos, hsin⟩ := cos_sin_octant3 (octantAngle (2 ^ l - r) (2 ^ l)) (hx.trans (by rw [hback]; push_cast; ring))
    exact conformingEntry_of true false (hC hr') (hS hr') hcos hsin
  · obtain ⟨hcos, hsin⟩ := cos_sin_octant4 (octantAngle r (2 ^ l)) (hx.trans (by push_cast; ring))
    exact conformingEntry_of true true (hC hr) (hS hr) hcos hsin
  · obtain ⟨hcos, hsin⟩ := cos_sin_octant5 (octantAngle (2 ^ l - r) (2 ^ l)) (hx.trans (by rw [hback]; push_cast; ring))
    exact conformingEntry_of true true (hS hr') (hC hr') hcos hsin
  · obtain ⟨hcos, hsin⟩ := cos_sin_octant6 (octantAngle r (2 ^ l)) (hx.trans (by push_cast; ring))
    exact conformingEntry_of false true (hS hr) (hC hr) hcos hsin
  · obtain ⟨hcos, hsin⟩ := cos_sin_octant7 (octantAngle (2 ^ l - r) (2 ^ l)) (hx.trans (by rw [hback]; push_cast; ring))
    exact conformingEntry_of false true (hC hr') (hS hr') hcos hsin

/-! ## The quadrant points -/

theorem fixSeries_zero (ds : List Nat) : fixSeries 0 ds = fixOne := by
  cases ds with
  | nil => rfl
  | cons d ds => simp [fixSeries]

theorem fixAngle_zero (m : Nat) : fixAngle 0 m = 0 := by simp [fixAngle]

theorem fixCos_zero (m : Nat) : fixCos 0 m = fixOne := by
  rw [fixCos, fixAngle_zero, zero_mul, Nat.zero_div, fixSeries_zero]

theorem fixSin_zero (m : Nat) : fixSin 0 m = 0 := by
  rw [fixSin, fixAngle_zero, zero_mul, Nat.zero_div]

/-- The start of an octant: its number and no angle past it. -/
theorem octant_start {l k o : Nat} (h : 8 * k = o * 2 ^ l) : 8 * k / 2 ^ l = o ∧ 8 * k % 2 ^ l = 0 := by
  rw [h, Nat.mul_div_cancel _ (Nat.two_pow_pos l), Nat.mul_mod_left]
  exact ⟨rfl, rfl⟩

theorem fixToBits32_plusOne : fixToBits32 false fixOne = 0x3F800000 := fixToBits32_one false

theorem fixToBits32_minusOne : fixToBits32 true fixOne = 0xBF800000 := fixToBits32_one true

section
variable {l k : Nat}

/-- The four quarters of the circle start at octants 0, 2, 4 and 6. -/
theorem referenceEntry_east (h : 8 * k = 0 * 2 ^ l) : referenceEntry l k = { i := 0x3F800000, q := 0 } := by
  obtain ⟨ho, hr⟩ := octant_start h
  simp only [referenceEntry, ho, hr, fixCos_zero, fixSin_zero, fixToBits32_zero, fixToBits32_plusOne]

theorem referenceEntry_north (h : 8 * k = 2 * 2 ^ l) : referenceEntry l k = { i := 0, q := 0x3F800000 } := by
  obtain ⟨ho, hr⟩ := octant_start h
  simp only [referenceEntry, ho, hr, fixCos_zero, fixSin_zero, fixToBits32_zero, fixToBits32_plusOne]

theorem referenceEntry_west (h : 8 * k = 4 * 2 ^ l) : referenceEntry l k = { i := 0xBF800000, q := 0 } := by
  obtain ⟨ho, hr⟩ := octant_start h
  simp only [referenceEntry, ho, hr, fixCos_zero, fixSin_zero, fixToBits32_zero, fixToBits32_minusOne]

theorem referenceEntry_south (h : 8 * k = 6 * 2 ^ l) : referenceEntry l k = { i := 0, q := 0xBF800000 } := by
  obtain ⟨ho, hr⟩ := octant_start h
  simp only [referenceEntry, ho, hr, fixCos_zero, fixSin_zero, fixToBits32_zero, fixToBits32_minusOne]

end

end Sys2Proof.Machine
end

section
/-! The statements about the reference table. -/

open Sys2Proof Sys2Proof.Machine

/-- Settles O29: the quarters start at octants 0, 2, 4 and 6, where the angle past the start is 0. -/
theorem referenceTableQuadrants : Obligations.ReferenceTableQuadrants := by
  refine ⟨fun l hl => ?_, referenceEntry_east rfl, referenceEntry_west rfl⟩
  obtain ⟨j, rfl⟩ := Nat.exists_eq_add_of_le' hl
  have hpow : 2 ^ (j + 2) = 4 * 2 ^ j := by rw [pow_add]; ring
  have hhalf : 2 ^ (j + 2 - 1) = 2 * 2 ^ j := by rw [show j + 2 - 1 = j + 1 from rfl, pow_succ']
  rw [Nat.add_sub_cancel, hhalf]
  exact ⟨referenceEntry_east (by omega), referenceEntry_north (by omega), referenceEntry_west (by omega),
    referenceEntry_south (by omega)⟩

/-- Settles O30: every entry is there, the series is off by at most 2^-25 and its rounding by as much. -/
theorem referenceTableConforms : Obligations.ReferenceTableConforms := by
  intro b _ htable k hk
  refine ⟨referenceEntry b.L k, ?_, conformingEntry_reference hk⟩
  rw [toneEntry, htable]

end
